-- ==== Sys2Proof/Word.lean ====
section
/-! DEFINITION. The word types of the MRFC (00_scope.md R4, R6): every value is unsigned. -/

namespace Sys2Proof

/-- A byte of a frame or of a buffer; also the width of `op`, `sel` and a slave ID. -/
abbrev Byte := BitVec 8

/-- A 16-bit value: the CRC, a register address, a register count, a register value, `data`. -/
abbrev Half := BitVec 16

/-- A command word `cmd[31:0]` or response data `rsp_data[31:0]`. -/
abbrev Word := BitVec 32

end Sys2Proof
end

