-- ==== Sys2Proof/Syntax.lean ====
section
/-! DEFINITION. The commands of the MRFC: one constructor per row of 30_encoding.md R58
(spec/opcode_table.json), its operands as R59 assembles them. -/

namespace Sys2Proof

/-- The fourteen commands of 30_encoding.md R58. Operand widths are those of R59, so an operand
outside its field cannot be written down. -/
inductive Instr where
  /-- `NOP` (40_host_access.md R80). -/
  | nop
  /-- `RD sel` (40_host_access.md R81). -/
  | rd (sel : Byte)
  /-- `WR sel, data` (40_host_access.md R82). -/
  | wr (sel : Byte) (data : Half)
  /-- `RST` (40_host_access.md R83). -/
  | rst
  /-- `CRC.INIT` (41_crc.md R96). -/
  | crcInit
  /-- `CRC.UPD b` (41_crc.md R97). -/
  | crcUpd (b : Byte)
  /-- `TX.BUILD` (42_request_serializer.md R107). -/
  | txBuild
  /-- `TX.RDB idx` (42_request_serializer.md R108). -/
  | txRdb (idx : Half)
  /-- `TX.NEXT` (42_request_serializer.md R109). -/
  | txNext
  /-- `RX.CLR` (43_response_parser.md R121). -/
  | rxClr
  /-- `RX.PUSH b` (43_response_parser.md R122). -/
  | rxPush (b : Byte)
  /-- `RX.CHECK` (43_response_parser.md R125). -/
  | rxCheck
  /-- `RX.RDB idx` (43_response_parser.md R127). -/
  | rxRdb (idx : Half)
  /-- `RX.REG idx` (43_response_parser.md R129). -/
  | rxReg (idx : Half)
  deriving DecidableEq, Repr

/-- The names of the fourteen commands, without operands. -/
inductive Command where
  | nop | rd | wr | rst | crcInit | crcUpd | txBuild | txRdb | txNext
  | rxClr | rxPush | rxCheck | rxRdb | rxReg
  deriving DecidableEq, Repr

/-- The command an instruction is, its operands dropped. -/
def Instr.command : Instr → Command
  | .nop => .nop
  | .rd _ => .rd
  | .wr _ _ => .wr
  | .rst => .rst
  | .crcInit => .crcInit
  | .crcUpd _ => .crcUpd
  | .txBuild => .txBuild
  | .txRdb _ => .txRdb
  | .txNext => .txNext
  | .rxClr => .rxClr
  | .rxPush _ => .rxPush
  | .rxCheck => .rxCheck
  | .rxRdb _ => .rxRdb
  | .rxReg _ => .rxReg

/-- The five formats of 30_encoding.md R57. -/
inductive Format where
  /-- No operand: `sel` and `data` must be 0. -/
  | z
  /-- Selector: `data` must be 0. -/
  | s
  /-- Selector and data. -/
  | sd
  /-- Byte: `sel` and `data[15:8]` must be 0. -/
  | b
  /-- Index: `sel` must be 0. -/
  | i
  deriving DecidableEq, Repr

end Sys2Proof
end

