-- ==== Sys2Proof/WellFormed.lean ====
section
/-! DEFINITION. Which words are commands: the opcode map of 30_encoding.md R58 as rows of match and
mask, and which instructions are well formed. `decode` (Sys2Proof/Decode.lean) is written from the
formats of R57 instead, so that the agreement of the two is a claim and no repetition. -/

namespace Sys2Proof

/-- One row of the opcode map of 30_encoding.md R58. -/
structure OpcodeRow where
  command : Command
  matchBits : Word
  mask : Word
  deriving DecidableEq, Repr

/-- The opcode map of 30_encoding.md R58, in the table's order. -/
def opcodeMap : List OpcodeRow :=
  [⟨.nop,     0x00000000#32, 0xFFFFFFFF#32⟩,
   ⟨.rd,      0x01000000#32, 0xFF00FFFF#32⟩,
   ⟨.wr,      0x02000000#32, 0xFF000000#32⟩,
   ⟨.rst,     0x03000000#32, 0xFFFFFFFF#32⟩,
   ⟨.crcInit, 0x10000000#32, 0xFFFFFFFF#32⟩,
   ⟨.crcUpd,  0x11000000#32, 0xFFFFFF00#32⟩,
   ⟨.txBuild, 0x20000000#32, 0xFFFFFFFF#32⟩]
  ++
  [⟨.txRdb,   0x21000000#32, 0xFFFF0000#32⟩,
   ⟨.txNext,  0x22000000#32, 0xFFFFFFFF#32⟩,
   ⟨.rxClr,   0x30000000#32, 0xFFFFFFFF#32⟩,
   ⟨.rxPush,  0x31000000#32, 0xFFFFFF00#32⟩,
   ⟨.rxCheck, 0x32000000#32, 0xFFFFFFFF#32⟩,
   ⟨.rxRdb,   0x33000000#32, 0xFFFF0000#32⟩,
   ⟨.rxReg,   0x34000000#32, 0xFFFF0000#32⟩]

/-- "a word `w` is the command when `w & mask = match`" (30_encoding.md R58). -/
def OpcodeRow.fits (r : OpcodeRow) (w : Word) : Bool := (w &&& r.mask) == r.matchBits

/-- A word is a legal command when some row of the opcode map fits it (30_encoding.md R60: every
other word is illegal). -/
def wellFormedWord (w : Word) : Bool := opcodeMap.any fun r => r.fits w

/-- Every instruction is well formed: the operand types of `Instr` are exactly the operand fields of
30_encoding.md R57 and R59, and whether a selector, a value or an index is legal is decided when the
command runs (a command fault), not by its form. -/
def Instr.wellFormed : Instr → Bool
  | .nop => true
  | .rd _ => true
  | .wr _ _ => true
  | .rst => true
  | .crcInit => true
  | .crcUpd _ => true
  | .txBuild => true
  | .txRdb _ => true
  | .txNext => true
  | .rxClr => true
  | .rxPush _ => true
  | .rxCheck => true
  | .rxRdb _ => true
  | .rxReg _ => true

end Sys2Proof
end

