-- ==== Sys2Proof/Decode.lean ====
section
/-! DEFINITION. From a command word to an instruction and back (30_encoding.md R55 to R60). -/

namespace Sys2Proof

/-- `cmd.op = cmd[31:24]` (30_encoding.md R56). -/
def opField (w : Word) : Byte := w.extractLsb' 24 8

/-- `cmd.sel = cmd[23:16]` (30_encoding.md R56). -/
def selField (w : Word) : Byte := w.extractLsb' 16 8

/-- `cmd.data = cmd[15:0]` (30_encoding.md R56). -/
def dataField (w : Word) : Half := w.extractLsb' 0 16

/-- The low byte of a 16-bit value, `v[7:0]`. -/
def loByte (v : Half) : Byte := v.extractLsb' 0 8

/-- The high byte of a 16-bit value, `v[15:8]`. -/
def hiByte (v : Half) : Byte := v.extractLsb' 8 8

/-- Why a word is no command (30_encoding.md R60); either way it is `ILLEGAL_OP`. -/
inductive Reject where
  /-- R60 (a): `op` is not in the opcode map. -/
  | unknownOp
  /-- R60 (b): a listed `op` with a non-zero bit in a field its format says must be 0. -/
  | mustBeZero (f : Format)
  deriving DecidableEq, Repr

/-- Every "must be 0" bit of the format is 0 (30_encoding.md R57). -/
def mustBeZeroHolds (f : Format) (w : Word) : Bool :=
  match f with
  | .z => selField w == 0#8 && dataField w == 0#16
  | .s => dataField w == 0#16
  | .sd => true
  | .b => selField w == 0#8 && hiByte (dataField w) == 0#8
  | .i => selField w == 0#8

/-- The opcode map, `op` to command (30_encoding.md R58): all 8 bits are compared. -/
def commandOf (op : Byte) : Option Command :=
  if op = 0x00#8 then some .nop
  else if op = 0x01#8 then some .rd
  else if op = 0x02#8 then some .wr
  else if op = 0x03#8 then some .rst
  else if op = 0x10#8 then some .crcInit
  else if op = 0x11#8 then some .crcUpd
  else if op = 0x20#8 then some .txBuild
  else if op = 0x21#8 then some .txRdb
  else if op = 0x22#8 then some .txNext
  else if op = 0x30#8 then some .rxClr
  else if op = 0x31#8 then some .rxPush
  else if op = 0x32#8 then some .rxCheck
  else if op = 0x33#8 then some .rxRdb
  else if op = 0x34#8 then some .rxReg
  else none

/-- The format of each command (30_encoding.md R57). -/
def formatOf : Command → Format
  | .nop => .z
  | .rd => .s
  | .wr => .sd
  | .rst => .z
  | .crcInit => .z
  | .crcUpd => .b
  | .txBuild => .z
  | .txRdb => .i
  | .txNext => .z
  | .rxClr => .z
  | .rxPush => .b
  | .rxCheck => .z
  | .rxRdb => .i
  | .rxReg => .i

/-- The command with the operands the word carries (30_encoding.md R59). -/
def assemble (c : Command) (w : Word) : Instr :=
  match c with
  | .nop => .nop
  | .rd => .rd (selField w)
  | .wr => .wr (selField w) (dataField w)
  | .rst => .rst
  | .crcInit => .crcInit
  | .crcUpd => .crcUpd (loByte (dataField w))
  | .txBuild => .txBuild
  | .txRdb => .txRdb (dataField w)
  | .txNext => .txNext
  | .rxClr => .rxClr
  | .rxPush => .rxPush (loByte (dataField w))
  | .rxCheck => .rxCheck
  | .rxRdb => .rxRdb (dataField w)
  | .rxReg => .rxReg (dataField w)

/-- The decoder: the opcode (30_encoding.md R58), then the format's zero bits (R57), then the
operands (R59). Total: every word is an instruction or a rejection by name. -/
def decode (w : Word) : Except Reject Instr :=
  match commandOf (opField w) with
  | none => .error .unknownOp
  | some c =>
    if mustBeZeroHolds (formatOf c) w then .ok (assemble c w)
    else .error (.mustBeZero (formatOf c))

/-- A word from its three fields (30_encoding.md R56). -/
def packWord (op sel : Byte) (data : Half) : Word := (op ++ sel) ++ data

/-- A byte operand in `data`, its high byte 0 (30_encoding.md R57, format B). -/
def byteData (b : Byte) : Half := 0#8 ++ b

/-- The encoder, from the assembler table of 30_encoding.md R62. -/
def encode : Instr → Word
  | .nop => packWord 0x00#8 0#8 0#16
  | .rd sel => packWord 0x01#8 sel 0#16
  | .wr sel data => packWord 0x02#8 sel data
  | .rst => packWord 0x03#8 0#8 0#16
  | .crcInit => packWord 0x10#8 0#8 0#16
  | .crcUpd b => packWord 0x11#8 0#8 (byteData b)
  | .txBuild => packWord 0x20#8 0#8 0#16
  | .txRdb idx => packWord 0x21#8 0#8 idx
  | .txNext => packWord 0x22#8 0#8 0#16
  | .rxClr => packWord 0x30#8 0#8 0#16
  | .rxPush b => packWord 0x31#8 0#8 (byteData b)
  | .rxCheck => packWord 0x32#8 0#8 0#16
  | .rxRdb idx => packWord 0x33#8 0#8 idx
  | .rxReg idx => packWord 0x34#8 0#8 idx

/-- The instruction the decoder reads from `nbits` bits `w` of a row of spec/opcode_table.json: the
command word is one 32-bit number at the port (30_encoding.md R55, 20_memory.md R43), so there is no
byte order to lay out. -/
def decodeTableWord (nbits w : Nat) : Option Instr :=
  match decode (BitVec.ofNat 32 (w % 2 ^ nbits)) with
  | .ok i => some i
  | .error _ => none

end Sys2Proof
end

