-- ==== Sys2Proof/Config.lean ====
section
/-! DEFINITION. What an implementation fixes (00_scope.md R4): the two parameters a platform may
choose, and the constants nobody may change. The MRFC has no free value: 00_scope.md R9 gives every
command exactly one outcome. -/

namespace Sys2Proof

/-- `CRC_IMPL` of 00_scope.md R4: which of the two algorithms of 41_crc.md the CRC unit uses. -/
inductive CrcImpl where
  | bitwise
  | table
  deriving DecidableEq, Repr

/-- The parameters of 00_scope.md R4 that a platform chooses. `CMD_LATENCY`, the third, is timing:
no rule depends on it (70_reset_and_hazards.md R181). -/
structure Params where
  /-- `RXCAP`: capacity of the receive buffer in bytes. -/
  rxcap : Nat
  /-- `CRC_IMPL`. -/
  crcImpl : CrcImpl
  deriving DecidableEq, Repr

/-- The defaults of 00_scope.md R4. -/
def Params.default : Params := ⟨256, .bitwise⟩

/-- The legal values of 00_scope.md R4: `RXCAP` from 5 to 65536; both algorithms are legal. -/
abbrev Params.Legal (p : Params) : Prop := 5 ≤ p.rxcap ∧ p.rxcap ≤ 65536

/-- `ID_MIN` (00_scope.md R4). -/
abbrev Config.idMin : Nat := 1

/-- `ID_MAX` (00_scope.md R4). -/
abbrev Config.idMax : Nat := 247

/-- `FC_READ` (00_scope.md R4, 10_state.md R15): the one function code, read holding registers. -/
abbrev Config.fcRead : Byte := 0x03#8

/-- `REQ_LEN` (00_scope.md R4): length of a request frame, and so of `TXBUF`. -/
abbrev Config.reqLen : Nat := 8

/-- `MIN_RSP` (00_scope.md R4): minimum valid response length. -/
abbrev Config.minRsp : Nat := 5

end Sys2Proof
end

