-- ==== Sys2Proof/Machine/State.lean ====
section
/-! DEFINITION. The state of the MRFC as plain data (10_state.md R10), the reasons a step can stop,
and the state after reset (10_state.md R35). -/

namespace Sys2Proof.Machine

/-- A byte buffer: the cells something has written, as (index, byte) pairs with strictly rising
indices. A cell that is not listed holds no value (10_state.md R36; log 5). -/
abbrev Memory := List Host.Cell

/-- `RESULT` (10_state.md R24), 3 bits. The reserved values 6 and 7 are never produced and have no
constructor. -/
inductive Verdict where
  | none
  | ok
  | short
  | crc
  | addr
  | overrun
  deriving DecidableEq, Repr

/-- The command faults of 60_exceptions.md R147. A command fault is no stop of the machine: taking
one is a next state (`raiseFault`). -/
inductive CmdFault where
  | illegalOp
  | badSel
  | badValue
  | badIndex
  | badSeq
  deriving DecidableEq, Repr

/-- One response at the port (10_state.md R11, 30_encoding.md R61): `fault` is `rsp_fault` (none is
0), `data` is `rsp_data`. -/
structure Response where
  fault : Option CmdFault
  data : Word
  deriving DecidableEq, Repr

/-- What the host can present to the block (00_scope.md R5, 10_state.md R11): a command word, or
the `rst` input asserted and released (70_reset_and_hazards.md R165). -/
inductive HostInput where
  | command (w : Word)
  | resetPin
  deriving DecidableEq, Repr

/-- The two byte buffers (20_memory.md R40). -/
inductive Space where
  | tx
  | rx
  deriving DecidableEq, Repr

/-- Why the machine stops. Neither reason is a command fault of the spec: 70_reset_and_hazards.md
R168 says that no fault-free command reads an unwritten cell, and from reset no step stops. -/
inductive Fault where
  /-- Raised by a read of a buffer cell that nothing has written since reset: `readCell`, called by
  `RD` (of `STATUS` and `EXP_LEN`), `TX.RDB`, `TX.NEXT`, `RX.CHECK`, `RX.RDB`, `RX.REG`. Safe: the
  model stops where the hardware would answer with an unspecified value (10_state.md R36). -/
  | unwrittenCell (space : Space) (idx : Nat)
  /-- Raised by a read at an index at which the buffer has no cell (8 and above in `TXBUF`, `RXCAP`
  and above in `RXBUF`): `readCell`, by the same commands. Safe: 20_memory.md R40 gives no such
  cell. -/
  | noSuchCell (space : Space) (idx : Nat)
  deriving DecidableEq, Repr

/-- Why the machine gives an instruction no meaning. -/
inductive Refusal where
  /-- Raised by an arm of `exec` whose instruction has no meaning yet. Safe. No arm raises it. -/
  | notModelled (mnemonic : String)
  deriving DecidableEq, Repr

/-- The state of the MRFC: the fourteen elements of 10_state.md R10, the parameters of 00_scope.md
R4 (log 3), and the model's own two fields for the host's side of the port (log 1, log 2). -/
structure State where
  /-- `RXCAP` and `CRC_IMPL` (00_scope.md R4); no command writes them. -/
  params : Params
  /-- `CRC` (10_state.md R13). -/
  crc : Half
  /-- `REQ_ID` (10_state.md R14). -/
  reqId : Byte
  /-- `REQ_ADDR` (10_state.md R16). -/
  reqAddr : Half
  /-- `REQ_CNT` (10_state.md R17). -/
  reqCnt : Half
  /-- `TXBUF[0..7]` (10_state.md R18). -/
  txBuf : Memory
  /-- `TX_VALID` (10_state.md R19). -/
  txValid : Bool
  /-- `TX_PTR` (10_state.md R20), 4 bits. -/
  txPtr : BitVec 4
  /-- `RXBUF[0..RXCAP-1]` (10_state.md R21). -/
  rxBuf : Memory
  /-- `RX_LEN` (10_state.md R22), a natural number. -/
  rxLen : Nat
  /-- `RX_OVF` (10_state.md R23). -/
  rxOvf : Bool
  /-- `RESULT` (10_state.md R24). -/
  result : Verdict
  /-- `FC_MATCH` (10_state.md R25). -/
  fcMatch : Bool
  /-- `BC_MATCH` (10_state.md R25). -/
  bcMatch : Bool
  /-- `FAULTS` (10_state.md R26), 6 bits. -/
  faults : BitVec 6
  /-- The model's own: what the host presents and the block has not taken, next first. -/
  inputs : List HostInput
  /-- The model's own: the responses given so far, in command order (00_scope.md R9). -/
  responses : List Response
  deriving DecidableEq, Repr

/-- The reset state (10_state.md R35, R36) of a block with parameters `p`, with nothing presented
at the port and no response given. -/
def State.resetWith (p : Params) : State where
  params := p
  crc := 0xFFFF#16
  reqId := 0x00#8
  reqAddr := 0x0000#16
  reqCnt := 0x0000#16
  txBuf := []
  txValid := false
  txPtr := 0#4
  rxBuf := []
  rxLen := 0
  rxOvf := false
  result := .none
  fcMatch := false
  bcMatch := false
  faults := 0#6
  inputs := []
  responses := []

/-- The machine right after reset, at the default parameters of 00_scope.md R4. -/
def State.reset : State := State.resetWith Params.default

end Sys2Proof.Machine
end

