-- ==== Sys2Proof/Machine/Ops.lean ====
section
/-! DEFINITION. The named operations over the buffers and the state: reading and writing a cell,
answering a command, taking a command fault, clearing the receive side. -/

namespace Sys2Proof.Machine

/-- How a step ends. -/
abbrev StepOutcome := Host.Outcome State Fault Refusal

/-! ## Buffers -/

/-- The canonical form of a buffer: indices strictly rising (so no index twice). No entry can equal
what an unlisted index reads as, since that is no value. -/
abbrev Memory.wf (m : Memory) : Prop := (m.map Prod.fst).Pairwise (· < ·)

/-- The byte a buffer holds at an index, if something has written it. -/
def Memory.read : Memory → Nat → Option Byte
  | [], _ => none
  | (k, b) :: rest, i => if k = i then some b else Memory.read rest i

/-- The buffer with byte `b` at index `i`, in canonical form. -/
def Memory.write : Memory → Nat → Byte → Memory
  | [], i, b => [(i, b)]
  | (k, c) :: rest, i, b =>
    if i < k then (i, b) :: (k, c) :: rest
    else if i = k then (i, b) :: rest
    else (k, c) :: Memory.write rest i b

/-- The buffer with the bytes `bs` at indices `i`, `i + 1`, … -/
def Memory.writeFrom : Memory → Nat → List Byte → Memory
  | m, _, [] => m
  | m, i, b :: bs => Memory.writeFrom (Memory.write m i b) (i + 1) bs

/-- `MemRead(space, i, 1)` (00_scope.md R7) of a buffer with `cap` cells: a cell that does not exist
or that nothing has written stops the machine (10_state.md R36; log 5, log 6). -/
def readCell (space : Space) (cap : Nat) (m : Memory) (i : Nat) : Except Fault Byte :=
  if i < cap then
    match Memory.read m i with
    | some b => .ok b
    | none => .error (.unwrittenCell space i)
  else .error (.noSuchCell space i)

/-- `TXBUF[i]` (10_state.md R18). -/
def readTx (s : State) (i : Nat) : Except Fault Byte :=
  readCell .tx Config.reqLen s.txBuf i

/-- `RXBUF[i]` (10_state.md R21). -/
def readRx (s : State) (i : Nat) : Except Fault Byte :=
  readCell .rx s.params.rxcap s.rxBuf i

/-- The `n` bytes that `rd` reads at indices `i`, `i + 1`, …, or the first stop met. -/
def readSpan (rd : Nat → Except Fault Byte) : Nat → Nat → Except Fault (List Byte)
  | _, 0 => .ok []
  | i, n + 1 =>
    match rd i with
    | .error f => .error f
    | .ok b =>
      match readSpan rd (i + 1) n with
      | .error f => .error f
      | .ok bs => .ok (b :: bs)

/-- The built request, `TXBUF[0..7]`. -/
def txFrame (s : State) : Except Fault (List Byte) := readSpan (readTx s) 0 Config.reqLen

/-- The received frame, `RXBUF[0 .. RX_LEN-1]`. -/
def rxFrame (s : State) : Except Fault (List Byte) := readSpan (readRx s) 0 s.rxLen

/-- Go on with what a read gave, or stop as the read stopped. -/
def orStop {α : Type} (r : Except Fault α) (k : α → StepOutcome) : StepOutcome :=
  match r with
  | .ok a => k a
  | .error f => .fault f

/-! ## Answering a command -/

/-- `respond(d)` (00_scope.md R7): the command ends without a fault, `rsp_fault = 0`. -/
def respond (d : Word) (s : State) : State :=
  { s with responses := s.responses ++ [⟨none, d⟩] }

/-- A byte zero-extended to `rsp_data` (20_memory.md R45). -/
def byteWord (b : Byte) : Word := b.setWidth 32

/-- A 16-bit value zero-extended to `rsp_data` (20_memory.md R45). -/
def halfWord (h : Half) : Word := h.setWidth 32

/-- The code of a command fault (60_exceptions.md R147), also its bit in `FAULTS`. -/
def CmdFault.code : CmdFault → Nat
  | .illegalOp => 1
  | .badSel => 2
  | .badValue => 3
  | .badIndex => 4
  | .badSeq => 5

/-- `rsp_fault[2:0]` of a response (30_encoding.md R61). -/
def Response.rspFault (r : Response) : BitVec 3 :=
  match r.fault with
  | none => 0#3
  | some c => BitVec.ofNat 3 (CmdFault.code c)

/-- The bit of `FAULTS` that a command fault sets (10_state.md R26). -/
def faultBit (c : CmdFault) : BitVec 6 := 1#6 <<< CmdFault.code c

/-- `raise Fault(c)` (60_exceptions.md R146), the block's only exception and the one operation that
takes it: the sticky bit is set, the response is `(c, 0)`, nothing else changes. There is no entry
to make (R155) and so no return from it (R156). -/
def raiseFault (c : CmdFault) (s : State) : State :=
  { s with
    faults := s.faults ||| faultBit c
    responses := s.responses ++ [⟨some c, 0#32⟩] }

/-! ## The receive side -/

/-- `RX_LEN <- 0; RX_OVF <- 0; RESULT <- NONE; FC_MATCH <- 0; BC_MATCH <- 0`: the clearing that
`RX.CLR` (43_response_parser.md R121), `TX.BUILD` (42_request_serializer.md R107) and `RST`
(40_host_access.md R83) share. The cells of `RXBUF` stay. -/
def clearReceive (s : State) : State :=
  { s with
    rxLen := 0
    rxOvf := false
    result := .none
    fcMatch := false
    bcMatch := false }

/-- The registers that `RST` sets beside the receive side (40_host_access.md R83), at the reset
values of 10_state.md R35. -/
def resetRegisters (s : State) : State :=
  { s with
    crc := 0xFFFF#16
    reqId := 0#8
    reqAddr := 0#16
    reqCnt := 0#16
    txValid := false
    txPtr := 0#4
    faults := 0#6 }

/-! ## Writing the buffers -/

/-- A freshly built request in `TXBUF` (42_request_serializer.md R107): all its bytes written, valid,
nothing handed out yet. -/
def loadRequest (frame : List Byte) (s : State) : State :=
  { s with txBuf := Memory.writeFrom s.txBuf 0 frame, txValid := true, txPtr := 0#4 }

/-- One received byte appended at `RX_LEN` (43_response_parser.md R122). -/
def appendByte (b : Byte) (s : State) : State :=
  { s with rxBuf := Memory.write s.rxBuf s.rxLen b, rxLen := s.rxLen + 1 }

end Sys2Proof.Machine
end

