-- ==== Sys2Proof/Machine/Operands.lean ====
section
/-! DEFINITION. The operand forms of the commands (30_encoding.md R57, R59): the register selector
of `RD` and `WR` (10_state.md R30) and the index operand. A byte operand is the byte itself. -/

namespace Sys2Proof.Machine

/-- The registers of the selector map (10_state.md R30). -/
inductive Reg where
  | status
  | faults
  | crc
  | reqId
  | reqFc
  | reqAddr
  | reqCnt
  | txPtr
  | rxLen
  | expLen
  | nreg
  | rxcap
  deriving DecidableEq, Repr

/-- The selector map (10_state.md R30): selectors 0x0C to 0xFF are undefined. -/
def regOfSel (sel : Byte) : Option Reg :=
  if sel = 0x00#8 then some .status
  else if sel = 0x01#8 then some .faults
  else if sel = 0x02#8 then some .crc
  else if sel = 0x03#8 then some .reqId
  else if sel = 0x04#8 then some .reqFc
  else if sel = 0x05#8 then some .reqAddr
  else if sel = 0x06#8 then some .reqCnt
  else if sel = 0x07#8 then some .txPtr
  else if sel = 0x08#8 then some .rxLen
  else if sel = 0x09#8 then some .expLen
  else if sel = 0x0A#8 then some .nreg
  else if sel = 0x0B#8 then some .rxcap
  else none

/-- The selector of a register, the map of 10_state.md R30 read the other way. -/
def selOfReg : Reg → Byte
  | .status => 0x00#8
  | .faults => 0x01#8
  | .crc => 0x02#8
  | .reqId => 0x03#8
  | .reqFc => 0x04#8
  | .reqAddr => 0x05#8
  | .reqCnt => 0x06#8
  | .txPtr => 0x07#8
  | .rxLen => 0x08#8
  | .expLen => 0x09#8
  | .nreg => 0x0A#8
  | .rxcap => 0x0B#8

/-- An index operand is the natural number `cmd[15:0]`, compared with a bound and never wrapped
(30_encoding.md R59). -/
def indexOf (idx : Half) : Nat := idx.toNat

end Sys2Proof.Machine
end

