-- ==== Sys2Proof/Machine/Flags.lean ====
section
/-! DEFINITION. Every flag and derived value: the verdict codes (10_state.md R24), `EXP_LEN`,
`RX_COMPLETE` and `NREG` (R27), `FC_MATCH` and `BC_MATCH` (R25), `STATUS` (R28), and what `RD`
returns of each register (R30). -/

namespace Sys2Proof.Machine

/-- The value of `RESULT` (10_state.md R24, 60_exceptions.md R150). -/
def Verdict.code : Verdict → BitVec 3
  | .none => 0#3
  | .ok => 1#3
  | .short => 2#3
  | .crc => 3#3
  | .addr => 4#3
  | .overrun => 5#3

/-- `req_cnt() = TXBUF[4] * 256 + TXBUF[5]` (10_state.md R27). -/
def reqCount (s : State) : Except Fault Nat :=
  match readTx s 4 with
  | .error f => .error f
  | .ok hi =>
    match readTx s 5 with
    | .error f => .error f
    | .ok lo => .ok (hi.toNat * 256 + lo.toNat)

/-- `EXP_LEN` (10_state.md R27). -/
def expLen (s : State) : Except Fault Nat :=
  if s.txValid then
    match reqCount s with
    | .error f => .error f
    | .ok n => .ok (5 + 2 * n)
  else .ok 0

/-- `RX_COMPLETE` (10_state.md R27). -/
def rxComplete (s : State) : Except Fault Bool :=
  if s.txValid then
    match expLen s with
    | .error f => .error f
    | .ok n => .ok (decide (n ≤ s.rxLen))
  else .ok false

/-- `nreg(L) = (L - 5) div 2` (43_response_parser.md R128). -/
def nregOf (len : Nat) : Nat := (len - 5) / 2

/-- `NREG` (10_state.md R27). -/
def nreg (s : State) : Nat := if s.result = .ok then nregOf s.rxLen else 0

/-- What `RX.CHECK` writes to `FC_MATCH` and `BC_MATCH` with verdict `v` (10_state.md R25,
43_response_parser.md R125): the comparisons when the verdict is `OK`, else 0. `BC_MATCH` compares
natural numbers. -/
def matchFlags (s : State) (v : Verdict) : Except Fault (Bool × Bool) :=
  if v = .ok then
    match readRx s 1 with
    | .error f => .error f
    | .ok fc =>
      match readTx s 1 with
      | .error f => .error f
      | .ok reqFc =>
        match readRx s 2 with
        | .error f => .error f
        | .ok bc => .ok (fc == reqFc, bc.toNat == s.rxLen - 5)
  else .ok (false, false)

/-- One bit as a bit vector. -/
def bit (b : Bool) : BitVec 1 := BitVec.ofBool b

/-- `STATUS` (10_state.md R28), bit 31 on the left: reserved 31:10, `BC_MATCH`, `FC_MATCH`, reserved
7, `RESULT`, reserved 3, `RX_COMPLETE`, `RX_OVF`, `TX_VALID`. -/
def statusWord (s : State) (complete : Bool) : Word :=
  0#22 ++ bit s.bcMatch ++ bit s.fcMatch ++ 0#1 ++ Verdict.code s.result ++ 0#1
    ++ bit complete ++ bit s.rxOvf ++ bit s.txValid

/-- What `RD` returns of a register (10_state.md R30, 40_host_access.md R81), zero-extended. -/
def readReg (s : State) : Reg → Except Fault Word
  | .status =>
    match rxComplete s with
    | .error f => .error f
    | .ok c => .ok (statusWord s c)
  | .faults => .ok (s.faults.setWidth 32)
  | .crc => .ok (halfWord s.crc)
  | .reqId => .ok (byteWord s.reqId)
  | .reqFc => .ok (byteWord Config.fcRead)
  | .reqAddr => .ok (halfWord s.reqAddr)
  | .reqCnt => .ok (halfWord s.reqCnt)
  | .txPtr => .ok (s.txPtr.setWidth 32)
  | .rxLen => .ok (BitVec.ofNat 32 s.rxLen)
  | .expLen =>
    match expLen s with
    | .error f => .error f
    | .ok n => .ok (BitVec.ofNat 32 n)
  | .nreg => .ok (BitVec.ofNat 32 (nreg s))
  | .rxcap => .ok (BitVec.ofNat 32 s.params.rxcap)

end Sys2Proof.Machine
end

