-- ==== Sys2Proof/Machine/HostAccess.lean ====
section
/-! DEFINITION. The host access commands `NOP`, `RD`, `WR`, `RST` (40_host_access.md R80 to R84).
No command needs a mode or a key (R84). -/

namespace Sys2Proof.Machine

/-- `NOP` (40_host_access.md R80). -/
def execNop (s : State) : StepOutcome := .next (respond 0#32 s)

/-- `RD sel` (40_host_access.md R81): an undefined selector raises `BAD_SEL`. -/
def execRd (sel : Byte) (s : State) : StepOutcome :=
  match regOfSel sel with
  | none => .next (raiseFault .badSel s)
  | some r => orStop (readReg s r) fun v => .next (respond v s)

/-- `WR sel, data` (40_host_access.md R82): an undefined or read-only selector raises `BAD_SEL`; a
value above 255 for `REQ_ID` raises `BAD_VALUE` and is not truncated. -/
def execWr (sel : Byte) (data : Half) (s : State) : StepOutcome :=
  match regOfSel sel with
  | some .reqId =>
    if 0xFF < data.toNat then .next (raiseFault .badValue s)
    else .next (respond 0#32 { s with reqId := loByte data })
  | some .reqAddr => .next (respond 0#32 { s with reqAddr := data })
  | some .reqCnt => .next (respond 0#32 { s with reqCnt := data })
  | _ => .next (raiseFault .badSel s)

/-- `RST` (40_host_access.md R83): every element but the cells of the two buffers takes its reset
value. -/
def execRst (s : State) : StepOutcome :=
  .next (respond 0#32 (resetRegisters (clearReceive s)))

end Sys2Proof.Machine
end

