-- ==== Sys2Proof/Machine/Parser.lean ====
section
/-! DEFINITION. The response parser and CRC validator (43_response_parser.md): the verdict, and the
commands `RX.CLR`, `RX.PUSH`, `RX.CHECK`, `RX.RDB`, `RX.REG`. -/

namespace Sys2Proof.Machine

/-! ## Judging -/

/-- The checksum a frame carries in its last two bytes, low byte first (20_memory.md R42). -/
def trailingCrc (rx : List Byte) : Half :=
  rx.getD (rx.length - 1) 0#8 ++ rx.getD (rx.length - 2) 0#8

/-- The CRC test of 43_response_parser.md R124: the checksum of the body, every byte but the last
two, against the last two bytes. -/
def crcGood (rx : List Byte) : Bool :=
  trailingCrc rx == crc16Modbus (rx.take (rx.length - 2))

/-- The verdict function `judge` of 43_response_parser.md R124 on the received bytes `rx` (so
`L = rx.length`), the overflow flag and the built request's slave ID `req[0]`. -/
def judge (rx : List Byte) (ovf : Bool) (reqId : Byte) : Verdict :=
  if rx.length < Config.minRsp then .short
  else if ovf then .overrun
  else if crcGood rx = false then .crc
  else if rx.getD 0 0#8 ≠ reqId then .addr
  else .ok

/-- The verdict on what the block holds, `judge(RXBUF, RX_LEN, RX_OVF, TXBUF)`. A buffer is read only
where a test of 43_response_parser.md R124 needs it: a short or overrun response is judged without
reading a byte. -/
def judgeReceived (s : State) : Except Fault Verdict :=
  if s.rxLen < Config.minRsp then .ok .short
  else if s.rxOvf then .ok .overrun
  else
    match rxFrame s with
    | .error f => .error f
    | .ok rx =>
      match readTx s 0 with
      | .error f => .error f
      | .ok reqId => .ok (judge rx false reqId)

/-- The state with a verdict and its two informational flags (10_state.md R24, R25). -/
def setVerdict (v : Verdict) (fc bc : Bool) (s : State) : State :=
  { s with result := v, fcMatch := fc, bcMatch := bc }

/-! ## The commands -/

/-- `RX.CLR` (43_response_parser.md R121). -/
def execRxClr (s : State) : StepOutcome := .next (respond 0#32 (clearReceive s))

/-- `RX.PUSH b` (43_response_parser.md R122): append only, at `RX_LEN`; a byte that finds the buffer
full is dropped and sets `RX_OVF`, which is no command fault. -/
def execRxPush (b : Byte) (s : State) : StepOutcome :=
  if s.result ≠ .none then .next (raiseFault .badSeq s)
  else if s.rxLen < s.params.rxcap then .next (respond 0#32 (appendByte b s))
  else .next (respond 0#32 { s with rxOvf := true })

/-- `RX.CHECK` (43_response_parser.md R125): a bad frame is a verdict, never a fault. -/
def execRxCheck (s : State) : StepOutcome :=
  if s.txValid = false then .next (raiseFault .badSeq s)
  else
    orStop (judgeReceived s) fun v =>
      orStop (matchFlags s v) fun flags =>
        .next (respond ((Verdict.code v).setWidth 32) (setVerdict v flags.1 flags.2 s))

/-- `RX.RDB idx` (43_response_parser.md R127). -/
def execRxRdb (idx : Half) (s : State) : StepOutcome :=
  if s.rxLen ≤ indexOf idx then .next (raiseFault .badIndex s)
  else orStop (readRx s (indexOf idx)) fun b => .next (respond (byteWord b) s)

/-- `RX.REG idx` (43_response_parser.md R129): register `idx` is payload bytes `3 + 2 * idx` (high)
and `4 + 2 * idx` (low). -/
def execRxReg (idx : Half) (s : State) : StepOutcome :=
  if s.result ≠ .ok then .next (raiseFault .badSeq s)
  else if nregOf s.rxLen ≤ indexOf idx then .next (raiseFault .badIndex s)
  else
    orStop (readRx s (3 + 2 * indexOf idx)) fun hi =>
      orStop (readRx s (4 + 2 * indexOf idx)) fun lo =>
        .next (respond (halfWord (hi ++ lo)) s)

end Sys2Proof.Machine
end

