-- ==== Sys2Proof/Machine/Serializer.lean ====
section
/-! DEFINITION. The request serializer (42_request_serializer.md): `build_request` and the commands
`TX.BUILD`, `TX.RDB`, `TX.NEXT`. -/

namespace Sys2Proof.Machine

/-- `build_request(id, addr, cnt)` (42_request_serializer.md R105; the layout of 30_encoding.md R66
and the byte orders of 20_memory.md R42): a pure, total function. -/
def buildRequest (id : Byte) (addr cnt : Half) : List Byte :=
  let body := [id, Config.fcRead, hiByte addr, loByte addr, hiByte cnt, loByte cnt]
  let c := crc16Modbus body
  body ++ [loByte c, hiByte c]

/-- `TX.BUILD` (42_request_serializer.md R107): refused with `BAD_VALUE` when `REQ_ID` is 0 or
above 247; else all 8 bytes of `TXBUF` are written, the pointer is rewound and the receive side is
cleared. `CRC` and the `REQ_*` registers stay. -/
def execTxBuild (s : State) : StepOutcome :=
  if s.reqId.toNat < Config.idMin ∨ Config.idMax < s.reqId.toNat then
    .next (raiseFault .badValue s)
  else
    .next (respond 0#32
      (loadRequest (buildRequest s.reqId s.reqAddr s.reqCnt) (clearReceive s)))

/-- `TX.RDB idx` (42_request_serializer.md R108). -/
def execTxRdb (idx : Half) (s : State) : StepOutcome :=
  if s.txValid = false then .next (raiseFault .badSeq s)
  else if 7 < indexOf idx then .next (raiseFault .badIndex s)
  else orStop (readTx s (indexOf idx)) fun b => .next (respond (byteWord b) s)

/-- `TX.NEXT` (42_request_serializer.md R109): the read with a side effect (20_memory.md R45). -/
def execTxNext (s : State) : StepOutcome :=
  if s.txValid = false then .next (raiseFault .badSeq s)
  else if s.txPtr = 8#4 then .next (raiseFault .badSeq s)
  else orStop (readTx s s.txPtr.toNat) fun b =>
    .next (respond (byteWord b) { s with txPtr := s.txPtr + 1#4 })

end Sys2Proof.Machine
end

