-- ==== Sys2Proof/Machine/Dispatch.lean ====
section
/-! DEFINITION. One arm per command of 30_encoding.md R58, each a direct call of its meaning. -/

namespace Sys2Proof.Machine

def exec (i : Instr) (s : State) : Host.Outcome State Fault Refusal :=
  match i with
  | .nop => Sys2Proof.Machine.execNop s
  | .rd sel => Sys2Proof.Machine.execRd sel s
  | .wr sel data => Sys2Proof.Machine.execWr sel data s
  | .rst => Sys2Proof.Machine.execRst s
  | .crcInit => Sys2Proof.Machine.execCrcInit s
  | .crcUpd b => Sys2Proof.Machine.execCrcUpd b s
  | .txBuild => Sys2Proof.Machine.execTxBuild s
  | .txRdb idx => Sys2Proof.Machine.execTxRdb idx s
  | .txNext => Sys2Proof.Machine.execTxNext s
  | .rxClr => Sys2Proof.Machine.execRxClr s
  | .rxPush b => Sys2Proof.Machine.execRxPush b s
  | .rxCheck => Sys2Proof.Machine.execRxCheck s
  | .rxRdb idx => Sys2Proof.Machine.execRxRdb idx s
  | .rxReg idx => Sys2Proof.Machine.execRxReg idx s

end Sys2Proof.Machine
end

