-- ==== Sys2Proof/Machine/Port.lean ====
section
/-! DEFINITION. The command port (10_state.md R11): taking what the host presents, the `rst` input,
and a word that is no command. -/

namespace Sys2Proof.Machine

/-- What a step finds at the port, with the state that is left once it is taken. -/
inductive Presented where
  /-- Nothing is presented. -/
  | idle (s : State)
  /-- `rst` is asserted. -/
  | reset (s : State)
  /-- A command word is taken. -/
  | command (w : Word) (s : State)

/-- Take what the host presents next: commands take effect in the order the port takes them
(20_memory.md R48), one at a time (00_scope.md R5). Idling loses no state (60_exceptions.md R158). -/
def takeInput (s : State) : Presented :=
  match s.inputs with
  | [] => .idle s
  | .command w :: rest => .command w { s with inputs := rest }
  | .resetPin :: rest => .reset { s with inputs := rest }

/-- `rst` (70_reset_and_hazards.md R165): the reset state of 10_state.md R35, whatever the block was
doing, and no response (R167). The buffers' cells are unspecified again (10_state.md R36), so
nothing is listed. The host's own side of the port stays. -/
def hardReset (s : State) : State :=
  { State.resetWith s.params with inputs := s.inputs, responses := s.responses }

/-- A word that matches no command (30_encoding.md R60): `ILLEGAL_OP`, nothing else. -/
def execIllegal (s : State) : StepOutcome := .next (raiseFault .illegalOp s)

/-- The state in which the host presents the command word `w` next, ahead of whatever it presents
already. -/
def present (w : Word) (s : State) : State :=
  { s with inputs := .command w :: s.inputs }

end Sys2Proof.Machine
end

