-- ==== Sys2Proof/Machine/Step.lean ====
section
/-! DEFINITION. One step of the MRFC: take what the host presents, perform it whole, answer
(00_scope.md R5). -/

namespace Sys2Proof.Machine

/-- One step: nothing presented leaves the state as it is; `rst` gives the reset state; a word that
is a command runs that command; any other word is `ILLEGAL_OP`. -/
def step (s : State) : Host.Outcome State Fault Refusal :=
  match takeInput s with
  | .idle s' => .next s'
  | .reset s' => .next (hardReset s')
  | .command w s' =>
    match decode w with
    | .ok i => exec i s'
    | .error _ => execIllegal s'

/-- `s` with the `nbits` bits `w` of an instruction as the command word the host presents next. -/
def State.withFetchWord (s : State) (nbits w : Nat) : State :=
  present (BitVec.ofNat 32 (w % 2 ^ nbits)) s

end Sys2Proof.Machine
end

