-- ==== Sys2Proof/Machine/HostView.lean ====
section
/-! DEFINITION. What the spec says of the host's use of the port: the mapping of a verdict to an
error kind (60_exceptions.md R152) and the pseudo-commands (30_encoding.md R63). No step uses them. -/

namespace Sys2Proof.Machine

/-- What a host that reproduces `sendAndReceive` reports of a response (60_exceptions.md R152). -/
inductive ErrorKind where
  | success
  | shortFrameError
  | crcError
  | ioError
  | noResult
  deriving DecidableEq, Repr

/-- `error_kind` (60_exceptions.md R152). -/
def errorKind : Verdict → ErrorKind
  | .none => .noResult
  | .ok => .success
  | .short => .shortFrameError
  | .crc => .crcError
  | .addr => .crcError
  | .overrun => .ioError

/-- `CRC.BYTES b0 … bn` (30_encoding.md R63). -/
def crcBytes (bs : List Byte) : List Instr := bs.map fun b => Instr.crcUpd b

/-- `REQ id, addr, cnt` (30_encoding.md R63). -/
def req (id addr cnt : Half) : List Instr :=
  [.wr (selOfReg .reqId) id, .wr (selOfReg .reqAddr) addr, .wr (selOfReg .reqCnt) cnt, .txBuild]

/-- `TX.ALL` (30_encoding.md R63). -/
def txAll : List Instr := List.replicate 8 .txNext

/-- `RX.BYTES b0 … bn` (30_encoding.md R63). -/
def rxBytes (bs : List Byte) : List Instr := bs.map fun b => Instr.rxPush b

end Sys2Proof.Machine
end

