-- ==== Sys2Proof/Safety.lean ====
section
/-! DEFINITION. The words the claims are stated in: the outcomes a command has by 00_scope.md R7 and
60_exceptions.md R146, the invariants of 10_state.md R33, and when two states differ only in cells
no command can read (70_reset_and_hazards.md R168). Written from the spec's words, not from the
operations of Machine/. -/

namespace Sys2Proof.Safety

open Sys2Proof.Machine

/-! ## Outcomes -/

/-- The state after the block has answered `d` without a fault (30_encoding.md R61). -/
def answered (d : Word) (s : State) : State :=
  { s with responses := s.responses ++ [⟨none, d⟩] }

/-- The bit of each command fault in `FAULTS` (10_state.md R29). -/
def faultMask : CmdFault → BitVec 6
  | .illegalOp => 0b000010#6
  | .badSel => 0b000100#6
  | .badValue => 0b001000#6
  | .badIndex => 0b010000#6
  | .badSeq => 0b100000#6

/-- The state after a command fault (60_exceptions.md R146): one sticky bit, the response
`(code, 0)`, and nothing else. -/
def faulted (c : CmdFault) (s : State) : State :=
  { s with
    faults := s.faults ||| faultMask c
    responses := s.responses ++ [⟨some c, 0#32⟩] }

/-- The commands of a list, one after the other, stopping where one stops. -/
def execAll : List Instr → State → StepOutcome
  | [], s => .next s
  | i :: rest, s =>
    match exec i s with
    | .next t => execAll rest t
    | .fault f => .fault f
    | .refused r => .refused r

/-- Every register at the value of the table of 10_state.md R35; the cells of the two buffers are
unspecified there, and nothing is said of them. -/
structure AtResetValues (s : State) : Prop where
  crc : s.crc = 0xFFFF#16
  reqId : s.reqId = 0x00#8
  reqAddr : s.reqAddr = 0x0000#16
  reqCnt : s.reqCnt = 0x0000#16
  txValid : s.txValid = false
  txPtr : s.txPtr = 0#4
  rxLen : s.rxLen = 0
  rxOvf : s.rxOvf = false
  result : s.result = .none
  fcMatch : s.fcMatch = false
  bcMatch : s.bcMatch = false
  faults : s.faults = 0#6

/-- The command faults each command can raise (60_exceptions.md R148), but for `ILLEGAL_OP`, which
belongs to words that are no command. -/
def mayRaise : Command → List CmdFault
  | .nop => []
  | .rd => [.badSel]
  | .wr => [.badSel, .badValue]
  | .rst => []
  | .crcInit => []
  | .crcUpd => []
  | .txBuild => [.badValue]
  | .txRdb => [.badSeq, .badIndex]
  | .txNext => [.badSeq]
  | .rxClr => []
  | .rxPush => [.badSeq]
  | .rxCheck => [.badSeq]
  | .rxRdb => [.badIndex]
  | .rxReg => [.badSeq, .badIndex]

/-- The widest value each command can return (30_encoding.md R61), as a bound on `rsp_data`: a byte,
a register value, a verdict code, or nothing. `RD` returns the register, up to 32 bits. -/
def returnBound : Command → Nat
  | .rd => 2 ^ 32
  | .txRdb => 2 ^ 8
  | .txNext => 2 ^ 8
  | .rxRdb => 2 ^ 8
  | .rxReg => 2 ^ 16
  | .rxCheck => 2 ^ 3
  | .nop => 1
  | .wr => 1
  | .rst => 1
  | .crcInit => 1
  | .crcUpd => 1
  | .txBuild => 1
  | .rxClr => 1
  | .rxPush => 1

/-- The bytes that `CRC.UPD` commands feed, in order. -/
def fedBytes : List Instr → List Byte
  | [] => []
  | .crcUpd b :: rest => b :: fedBytes rest
  | _ :: rest => fedBytes rest

/-- The numeric value of a verdict (10_state.md R24). -/
def verdictNumber : Verdict → Nat
  | .none => 0
  | .ok => 1
  | .short => 2
  | .crc => 3
  | .addr => 4
  | .overrun => 5

/-! ## Words and formats -/

/-- Presented at the port, the word runs the command `i` (00_scope.md R5). -/
def Runs (w : Word) (i : Instr) : Prop :=
  ∀ (s : State) (rest : List HostInput), s.inputs = .command w :: rest →
    step s = exec i { s with inputs := rest }

/-- Presented at the port, the word ends with `ILLEGAL_OP` and changes nothing but `FAULTS`
(30_encoding.md R60). -/
def Illegal (w : Word) : Prop :=
  ∀ (s : State) (rest : List HostInput), s.inputs = .command w :: rest →
    step s = .next (faulted .illegalOp { s with inputs := rest })

/-- The words with opcode `op`, in format Z of 30_encoding.md R57, are those of the command `i`. -/
def FormatZ (op : Byte) (i : Instr) : Prop :=
  ∀ w : Word, opField w = op →
    (selField w = 0#8 ∧ dataField w = 0#16 → Runs w i)
    ∧ (selField w ≠ 0#8 ∨ dataField w ≠ 0#16 → Illegal w)

/-- The same for format S: `i` takes the selector. -/
def FormatS (op : Byte) (i : Byte → Instr) : Prop :=
  ∀ w : Word, opField w = op →
    (dataField w = 0#16 → Runs w (i (selField w)))
    ∧ (dataField w ≠ 0#16 → Illegal w)

/-- The same for format SD: `i` takes the selector and the data, and no such word is illegal. -/
def FormatSD (op : Byte) (i : Byte → Half → Instr) : Prop :=
  ∀ w : Word, opField w = op → Runs w (i (selField w) (dataField w))

/-- The same for format B: `i` takes the low byte of the data. -/
def FormatB (op : Byte) (i : Byte → Instr) : Prop :=
  ∀ w : Word, opField w = op →
    (selField w = 0#8 ∧ hiByte (dataField w) = 0#8 → Runs w (i (loByte (dataField w))))
    ∧ (selField w ≠ 0#8 ∨ hiByte (dataField w) ≠ 0#8 → Illegal w)

/-- The same for format I: `i` takes the data as an index. -/
def FormatI (op : Byte) (i : Half → Instr) : Prop :=
  ∀ w : Word, opField w = op →
    (selField w = 0#8 → Runs w (i (dataField w)))
    ∧ (selField w ≠ 0#8 → Illegal w)

/-! ## Frames -/

/-- The last two bytes of a frame, low byte first, are the checksum of the bytes before them
(41_crc.md R100, 42_request_serializer.md R106). -/
def CarriesCrc (f : List Byte) : Prop :=
  (f.getD (f.length - 2) 0#8).toNat + 256 * (f.getD (f.length - 1) 0#8).toNat
    = (crc16Modbus (f.take (f.length - 2))).toNat

/-- A frame with bit `j` of byte `k` inverted (41_crc.md R100). -/
def flipBit (f : List Byte) (k j : Nat) : List Byte :=
  f.set k (f.getD k 0#8 ^^^ (1#8 <<< j))

/-- A well-formed request frame (10_state.md R33 item 6). -/
def RequestFrame (f : List Byte) : Prop :=
  f.length = 8 ∧ 1 ≤ (f.getD 0 0#8).toNat ∧ (f.getD 0 0#8).toNat ≤ 247 ∧ f.getD 1 0#8 = 0x03#8
    ∧ CarriesCrc f

/-! ## Invariants -/

/-- The invariants of 10_state.md R33, item by item (item 4 holds by the type of `RESULT`). -/
structure StateInv (s : State) : Prop where
  /-- Item 1. -/
  txPtr_le : s.txPtr.toNat ≤ 8
  /-- Item 2. -/
  rxLen_le : s.rxLen ≤ s.params.rxcap
  /-- Item 3. -/
  ovf_full : s.rxOvf = true → s.rxLen = s.params.rxcap
  /-- Item 5. -/
  verdict_has_request : s.result ≠ .none → s.txValid = true
  /-- Item 6, and item 11 for `TXBUF`: every cell of the built request can be read. -/
  request_frame : s.txValid = true → ∃ f, txFrame s = .ok f ∧ RequestFrame f
  /-- Item 7. -/
  ok_frame : s.result = .ok →
    5 ≤ s.rxLen ∧ s.rxOvf = false ∧ (∃ id, readRx s 0 = .ok id ∧ readTx s 0 = .ok id)
      ∧ ∃ f, rxFrame s = .ok f ∧ CarriesCrc f
  /-- Item 8. -/
  flags_clear : s.result ≠ .ok → s.fcMatch = false ∧ s.bcMatch = false
  /-- Item 9, first half. -/
  short_len : s.result = .short → s.rxLen < 5
  /-- Item 9, second half. -/
  overrun_ovf : s.result = .overrun → s.rxOvf = true
  /-- Item 10. -/
  faults_bit0 : s.faults.getLsbD 0 = false
  /-- Item 11 for `RXBUF`: every cell below `RX_LEN` can be read. -/
  rx_written : ∀ i, i < s.rxLen → ∃ b, readRx s i = .ok b

/-- A verdict always describes the bytes in the buffer: judging again gives the same verdict and
flags (43_response_parser.md R125). -/
def VerdictCurrent (s : State) : Prop :=
  s.result ≠ .none →
    judgeReceived s = .ok s.result ∧ matchFlags s s.result = .ok (s.fcMatch, s.bcMatch)

/-- Both buffers are in canonical form and list only cells that exist (20_memory.md R40), and the
parameters are legal (00_scope.md R4). -/
structure Canonical (s : State) : Prop where
  params_legal : s.params.Legal
  txBuf_wf : Memory.wf s.txBuf
  rxBuf_wf : Memory.wf s.rxBuf
  txBuf_range : ∀ c ∈ s.txBuf, c.1 < 8
  rxBuf_range : ∀ c ∈ s.rxBuf, c.1 < s.params.rxcap

/-! ## What no command can see -/

/-- Two states that differ at most in buffer cells no command can read: `TXBUF` while `TX_VALID` is
0, `RXBUF` at and above `RX_LEN` (10_state.md R36, 70_reset_and_hazards.md R168). -/
structure SameVisible (s t : State) : Prop where
  rest : { s with txBuf := t.txBuf, rxBuf := t.rxBuf } = t
  tx : s.txValid = true → ∀ i, i < 8 → readTx s i = readTx t i
  rx : ∀ i, i < s.rxLen → readRx s i = readRx t i

/-- Two outcomes that no host can tell apart: next states that agree on all a command can read, or
the same stop. -/
inductive SameOutcome : StepOutcome → StepOutcome → Prop where
  | next {s t : State} (h : SameVisible s t) : SameOutcome (.next s) (.next t)
  | fault (f : Fault) : SameOutcome (.fault f) (.fault f)
  | refused (r : Refusal) : SameOutcome (.refused r) (.refused r)

/-- An outcome with the next state changed by `g`. -/
def mapNext (g : State → State) : StepOutcome → StepOutcome
  | .next s => .next (g s)
  | .fault f => .fault f
  | .refused r => .refused r

/-- The state with the other algorithm in its CRC unit (00_scope.md R4). -/
def withCrcImpl (impl : CrcImpl) (s : State) : State :=
  { s with params := { s.params with crcImpl := impl } }

end Sys2Proof.Safety
end

