-- ==== Sys2Proof/Certificates/Slice0/Obligations.lean ====
section
/-! DEFINITION. The statements for the provers, from the numbered rules of spec/. A statement that
stops at a state no run reaches takes as a premise what rules that state out: cells that can be read,
or the invariants of 10_state.md R33. The clause `Format…` of a command's statement is the "Encoding"
line of its rule, and its `ILLEGAL_OP`. -/

open Sys2Proof Sys2Proof.Machine Sys2Proof.Safety

/-! ## Encoding -/

/-- Decoding the encoding of a command gives it back, with every operand at every value
(30_encoding.md R56 to R59). -/
def Obligations.DecodeEncodeRoundTrip : Prop :=
  ∀ i : Instr, i.wellFormed = true → decode (encode i) = .ok i

/-- A word that decodes is the encoding of what it decodes to: no bit of a word is ignored
(30_encoding.md R57, R60). -/
def Obligations.EncodeDecodeRoundTrip : Prop :=
  ∀ (w : Word) (i : Instr), decode w = .ok i → encode i = w

/-- 30_encoding.md R58: a word is a command exactly when it fits that command's match and mask, and
a word that fits no row is no command. -/
def Obligations.DecodeFollowsOpcodeMap : Prop :=
  ∀ w : Word,
    (∀ r ∈ opcodeMap,
      (w &&& r.mask = r.matchBits ↔ ∃ i, decode w = .ok i ∧ i.command = r.command))
    ∧ ((∀ r ∈ opcodeMap, w &&& r.mask ≠ r.matchBits) → ∃ e, decode w = .error e)

/-- 30_encoding.md R60: a word that fits no row ends with `ILLEGAL_OP` and changes nothing but
`FAULTS`; (a) every `op` outside the map is such a word, (b) so is a listed `op` with a non-zero bit
in a must-be-zero field; only the all-zero word is `NOP`, and the all-ones word is illegal. -/
def Obligations.UnlistedWordRaisesIllegalOp : Prop :=
  (∀ (s : State) (w : Word) (rest : List HostInput), s.inputs = .command w :: rest →
    (∀ r ∈ opcodeMap, w &&& r.mask ≠ r.matchBits) →
    step s = .next (faulted .illegalOp { s with inputs := rest }))
  ∧ (∀ w : Word,
      ((0x04 ≤ (opField w).toNat ∧ (opField w).toNat ≤ 0x0F)
        ∨ (0x12 ≤ (opField w).toNat ∧ (opField w).toNat ≤ 0x1F)
        ∨ (0x23 ≤ (opField w).toNat ∧ (opField w).toNat ≤ 0x2F)
        ∨ 0x35 ≤ (opField w).toNat) →
      ∀ r ∈ opcodeMap, w &&& r.mask ≠ r.matchBits)
  ∧ (∀ (w : Word) (r : OpcodeRow), r ∈ opcodeMap → opField w = opField r.matchBits →
      w &&& r.mask ≠ r.matchBits → ∀ q ∈ opcodeMap, w &&& q.mask ≠ q.matchBits)
  ∧ (∀ w : Word, decode w = .ok .nop ↔ w = 0x00000000#32)
  ∧ (∀ r ∈ opcodeMap, 0xFFFFFFFF#32 &&& r.mask ≠ r.matchBits)

/-- Words of the assembler table (30_encoding.md R62) and of the rules' examples decode to the
commands they stand for. -/
def Obligations.SpecWordsDecode : Prop :=
  decode 0x01020000#32 = .ok (.rd 0x02#8)
  ∧ decode 0x0205006B#32 = .ok (.wr 0x05#8 0x006B#16)
  ∧ decode 0x11000001#32 = .ok (.crcUpd 0x01#8)
  ∧ decode 0x21000006#32 = .ok (.txRdb 6#16)
  ∧ decode 0x34000001#32 = .ok (.rxReg 1#16)

/-! ## The step, the port and reset -/

/-- A step takes the next command word and runs the command it decodes to; what the step adds around
`exec` is only that the word is taken from the port (00_scope.md R5, 20_memory.md R48). That the
words presented stand in `State.inputs` is the model's choice (log 1). -/
def Obligations.StepRunsDecodedCommand : Prop :=
  ∀ (s : State) (w : Word) (rest : List HostInput) (i : Instr),
    s.inputs = .command w :: rest → decode w = .ok i →
    step s = exec i { s with inputs := rest }

/-- With nothing presented a step changes nothing: idling loses no state (60_exceptions.md R158),
and no state changes except by a command or by reset (00_scope.md R5). That idling is a step of its
own is the model's choice (log 1). -/
def Obligations.IdleStepChangesNothing : Prop :=
  ∀ s : State, s.inputs = [] → step s = .next s

/-- `rst` (70_reset_and_hazards.md R165, R167): the reset state whatever the state was, and no
response. That the buffers then list nothing is the model's form of "unspecified" (log 5), and that
the words not yet taken stay presented is the model's choice (log 7). -/
def Obligations.ResetPinGivesResetState : Prop :=
  ∀ (s : State) (rest : List HostInput), s.inputs = .resetPin :: rest →
    step s = .next
      { State.resetWith s.params with inputs := rest, responses := s.responses }

/-- 10_state.md R35: after `rst`, and after `RST`, every register holds the value of the table; the
cells of the buffers are unspecified. -/
def Obligations.ResetLeavesSpecValues : Prop :=
  AtResetValues State.reset
  ∧ (∀ (s : State) (rest : List HostInput), s.inputs = .resetPin :: rest →
      ∃ t, step s = .next t ∧ AtResetValues t)
  ∧ (∀ s : State, ∃ t, exec .rst s = .next t ∧ AtResetValues t)

/-- The "Reset value read" column of 10_state.md R30 (70_reset_and_hazards.md R166): what `RD`
returns of each register in a state at the reset values, whatever the cells of the buffers hold. -/
def Obligations.ReadsAfterReset : Prop :=
  ∀ s : State, AtResetValues s →
    exec (.rd 0x00#8) s = .next (answered 0x00000000#32 s)
    ∧ exec (.rd 0x01#8) s = .next (answered 0x00000000#32 s)
    ∧ exec (.rd 0x02#8) s = .next (answered 0x0000FFFF#32 s)
    ∧ exec (.rd 0x03#8) s = .next (answered 0x00000000#32 s)
    ∧ exec (.rd 0x04#8) s = .next (answered 0x00000003#32 s)
    ∧ exec (.rd 0x05#8) s = .next (answered 0x00000000#32 s)
    ∧ exec (.rd 0x06#8) s = .next (answered 0x00000000#32 s)
    ∧ exec (.rd 0x07#8) s = .next (answered 0x00000000#32 s)
    ∧ exec (.rd 0x08#8) s = .next (answered 0x00000000#32 s)
    ∧ exec (.rd 0x09#8) s = .next (answered 0x00000000#32 s)
    ∧ exec (.rd 0x0A#8) s = .next (answered 0x00000000#32 s)
    ∧ exec (.rd 0x0B#8) s = .next (answered (BitVec.ofNat 32 s.params.rxcap) s)

/-! ## Host access -/

/-- 40_host_access.md R80: `NOP` in any state returns `(0, 0)` and leaves the state unchanged; its
one word is 0x00000000. -/
def Obligations.NopRespondsOnly : Prop :=
  (∀ s : State, exec .nop s = .next (answered 0#32 s)) ∧ FormatZ 0x00#8 .nop

/-- 40_host_access.md R81, 10_state.md R30: what `RD` returns of the registers that are state or
constants, in every state, and that it changes nothing; a word of `RD` with non-zero `data` is
illegal. -/
def Obligations.RdReturnsRegister : Prop :=
  (∀ s : State,
    exec (.rd 0x01#8) s = .next (answered (s.faults.setWidth 32) s)
    ∧ exec (.rd 0x02#8) s = .next (answered (s.crc.setWidth 32) s)
    ∧ exec (.rd 0x03#8) s = .next (answered (s.reqId.setWidth 32) s)
    ∧ exec (.rd 0x04#8) s = .next (answered 3#32 s)
    ∧ exec (.rd 0x05#8) s = .next (answered (s.reqAddr.setWidth 32) s)
    ∧ exec (.rd 0x06#8) s = .next (answered (s.reqCnt.setWidth 32) s)
    ∧ exec (.rd 0x07#8) s = .next (answered (s.txPtr.setWidth 32) s)
    ∧ exec (.rd 0x08#8) s = .next (answered (BitVec.ofNat 32 s.rxLen) s)
    ∧ exec (.rd 0x0B#8) s = .next (answered (BitVec.ofNat 32 s.params.rxcap) s))
  ∧ FormatS 0x01#8 .rd

/-- 10_state.md R27: what `RD` returns of `EXP_LEN` and `NREG`. With a built request `EXP_LEN` is
`5 + 2 * req_cnt()`, the count being bytes 4 and 5 of the request; without one it reads 0. -/
def Obligations.RdReturnsDerivedValue : Prop :=
  ∀ s : State,
    (s.txValid = false → exec (.rd 0x09#8) s = .next (answered 0#32 s))
    ∧ (∀ hi lo : Byte, s.txValid = true → readTx s 4 = .ok hi → readTx s 5 = .ok lo →
        exec (.rd 0x09#8) s
          = .next (answered (BitVec.ofNat 32 (5 + 2 * (hi.toNat * 256 + lo.toNat))) s))
    ∧ (s.result = .ok →
        exec (.rd 0x0A#8) s = .next (answered (BitVec.ofNat 32 ((s.rxLen - 5) / 2)) s))
    ∧ (s.result ≠ .ok → exec (.rd 0x0A#8) s = .next (answered 0#32 s))

/-- 10_state.md R28: the fields of `STATUS`, bit by bit; its reset value; it cannot be written. -/
def Obligations.StatusLayout : Prop :=
  (∀ (s : State) (complete : Bool),
    (s.txValid = false ∧ complete = false
      ∨ s.txValid = true ∧ ∃ hi lo : Byte, readTx s 4 = .ok hi ∧ readTx s 5 = .ok lo
          ∧ complete = decide (5 + 2 * (hi.toNat * 256 + lo.toNat) ≤ s.rxLen)) →
    ∃ w : Word, exec (.rd 0x00#8) s = .next (answered w s)
      ∧ w.getLsbD 0 = s.txValid
      ∧ w.getLsbD 1 = s.rxOvf
      ∧ w.getLsbD 2 = complete
      ∧ w.getLsbD 3 = false
      ∧ (w.extractLsb' 4 3).toNat = verdictNumber s.result
      ∧ w.getLsbD 7 = false
      ∧ w.getLsbD 8 = s.fcMatch
      ∧ w.getLsbD 9 = s.bcMatch
      ∧ w.extractLsb' 10 22 = 0#22)
  ∧ exec (.rd 0x00#8) State.reset = .next (answered 0#32 State.reset)
  ∧ (∀ (s : State) (data : Half), exec (.wr 0x00#8 data) s = .next (faulted .badSel s))

/-- 10_state.md R30, 40_host_access.md R81: `RD` of a selector from 0x0C to 0xFF raises `BAD_SEL`. -/
def Obligations.RdUndefinedSelectorFaults : Prop :=
  ∀ (s : State) (sel : Byte), 0x0B < sel.toNat → exec (.rd sel) s = .next (faulted .badSel s)

/-- 40_host_access.md R82: `WR` writes exactly one of `REQ_ID`, `REQ_ADDR`, `REQ_CNT`; any other
selector raises `BAD_SEL`, a value above 255 for `REQ_ID` raises `BAD_VALUE`; no `WR` word is
`ILLEGAL_OP`. -/
def Obligations.WrWritesRequestRegister : Prop :=
  (∀ (s : State) (sel : Byte) (data : Half),
    exec (.wr sel data) s = .next
      (if sel ≠ 0x03#8 ∧ sel ≠ 0x05#8 ∧ sel ≠ 0x06#8 then faulted .badSel s
       else if sel = 0x03#8 ∧ 0x00FF < data.toNat then faulted .badValue s
       else if sel = 0x03#8 then answered 0#32 { s with reqId := data.setWidth 8 }
       else if sel = 0x05#8 then answered 0#32 { s with reqAddr := data }
       else answered 0#32 { s with reqCnt := data }))
  ∧ FormatSD 0x02#8 .wr

/-- 70_reset_and_hazards.md R178: a `WR` after a build changes neither the built frame, nor
`EXP_LEN`, nor the verdict a response gets. -/
def Obligations.WrLeavesBuiltRequest : Prop :=
  ∀ (s t : State) (sel : Byte) (data : Half), exec (.wr sel data) s = .next t →
    txFrame t = txFrame s ∧ expLen t = expLen s ∧ judgeReceived t = judgeReceived s

/-- 40_host_access.md R83: `RST` writes every element but the cells of `TXBUF` and `RXBUF`, and is
the only command that clears a bit of `FAULTS`. -/
def Obligations.RstRestoresResetState : Prop :=
  (∀ s : State, exec .rst s = .next
    { params := s.params, crc := 0xFFFF#16, reqId := 0#8, reqAddr := 0#16, reqCnt := 0#16
      txBuf := s.txBuf, txValid := false, txPtr := 0#4
      rxBuf := s.rxBuf, rxLen := 0, rxOvf := false, result := .none
      fcMatch := false, bcMatch := false, faults := 0#6
      inputs := s.inputs, responses := s.responses ++ [⟨none, 0#32⟩] })
  ∧ (∀ (i : Instr) (s t : State) (n : Nat), i ≠ .rst → exec i s = .next t →
      s.faults.getLsbD n = true → t.faults.getLsbD n = true)
  ∧ FormatZ 0x03#8 .rst

/-- 70_reset_and_hazards.md R167: `RST` and `rst` give the same values in every element but the
buffer cells, `RST` answers `(0, 0)` and `rst` nothing, and no sequence of commands and resets tells
the two states apart: from both, `n` steps run without a stop and give the same responses. -/
def Obligations.RstIndistinguishableFromReset : Prop :=
  ∀ s : State, ∃ a b : State,
    exec .rst s = .next a
    ∧ step { s with inputs := .resetPin :: s.inputs } = .next b
    ∧ { a with
          txBuf := b.txBuf, rxBuf := b.rxBuf, inputs := b.inputs, responses := b.responses } = b
    ∧ a.responses = s.responses ++ [⟨none, 0#32⟩]
    ∧ b.responses = s.responses
    ∧ ∀ (n : Nat) (ins : List HostInput), ∃ u v : State,
        core.run n { a with inputs := ins, responses := [] } = .next u
        ∧ core.run n { b with inputs := ins, responses := [] } = .next v
        ∧ u.responses = v.responses

/-! ## CRC generator -/

/-- 41_crc.md R96: `CRC.INIT` writes 0xFFFF to `CRC` and nothing else. -/
def Obligations.CrcInitWritesInitialValue : Prop :=
  (∀ s : State, exec .crcInit s = .next (answered 0#32 { s with crc := 0xFFFF#16 }))
  ∧ FormatZ 0x10#8 .crcInit

/-- 41_crc.md R97: `CRC.UPD b` steps `CRC` by the byte, in whichever form `CRC_IMPL` chooses, and
writes nothing else; a byte is not truncated from a wider value, the word is illegal. -/
def Obligations.CrcUpdStepsAccumulator : Prop :=
  (∀ (s : State) (b : Byte),
    exec (.crcUpd b) s = .next (answered 0#32 { s with crc := crc16Step s.crc b }))
  ∧ FormatB 0x11#8 .crcUpd

/-- 41_crc.md R94: the table form equals the bitwise form for every value and byte, and no command
can tell which of the two the hardware uses. -/
def Obligations.CrcImplUnobservable : Prop :=
  (∀ (c : Half) (b : Byte),
    (c >>> 8) ^^^ crcTable.getD ((c ^^^ b.setWidth 16).toNat % 256) 0#16 = crc16Step c b
    ∧ crc16StepTable c b = crc16Step c b)
  ∧ (∀ (i : Instr) (s : State) (impl : CrcImpl),
      exec i (withCrcImpl impl s) = mapNext (withCrcImpl impl) (exec i s))

/-- 10_state.md R13, 41_crc.md R93: after `CRC.INIT` and any commands but `CRC.INIT` and `RST`,
`CRC` is the checksum of the bytes fed with `CRC.UPD` since, whatever other commands stand between. -/
def Obligations.CrcHoldsChecksumOfFedBytes : Prop :=
  ∀ (s t : State) (is : List Instr), (∀ i ∈ is, i ≠ .crcInit ∧ i ≠ .rst) →
    execAll (.crcInit :: is) s = .next t → t.crc = crc16Modbus (fedBytes is)

/-- 41_crc.md R99: the checksum of a message followed by its own checksum, low byte first, is 0. -/
def Obligations.ResidueLaw : Prop :=
  ∀ m : List Byte,
    crc16Modbus (m ++ [(crc16Modbus m).setWidth 8, (crc16Modbus m >>> 8).setWidth 8]) = 0x0000#16

/-- 41_crc.md R100: a frame of at least 3 bytes that carries its checksum no longer does when
exactly one bit of it is inverted, in any byte including the two CRC bytes. -/
def Obligations.SingleBitErrorDetected : Prop :=
  ∀ (f : List Byte) (k j : Nat), 3 ≤ f.length → CarriesCrc f → k < f.length → j < 8 →
    ¬ CarriesCrc (flipBit f k j)

/-- 70_reset_and_hazards.md R174: a frame that carries its checksum, followed by any number of 0x00
bytes, still carries its checksum. -/
def Obligations.TrailingZerosKeepCrc : Prop :=
  ∀ (f : List Byte) (n : Nat), 3 ≤ f.length → CarriesCrc f →
    CarriesCrc (f ++ List.replicate n 0x00#8)

/-! ## Request serializer -/

/-- 42_request_serializer.md R106: the checksum of the first six bytes of a request is its last two
bytes, low byte first, and the checksum of the whole request is 0. -/
def Obligations.RequestRoundTrip : Prop :=
  ∀ (id : Byte) (addr cnt : Half),
    (crc16Modbus ((buildRequest id addr cnt).take 6)).toNat
        = ((buildRequest id addr cnt).getD 6 0#8).toNat
          + 256 * ((buildRequest id addr cnt).getD 7 0#8).toNat
    ∧ crc16Modbus (buildRequest id addr cnt) = 0x0000#16

/-- 42_request_serializer.md R107 with the layout of 30_encoding.md R66: with `REQ_ID` from 1 to 247
`TX.BUILD` writes the eight bytes of the request to `TXBUF`, sets `TX_VALID`, rewinds `TX_PTR`,
clears the receive side and leaves all else, and `EXP_LEN` then reads `5 + 2 * REQ_CNT`; otherwise
it raises `BAD_VALUE`. -/
def Obligations.TxBuildLoadsRequest : Prop :=
  (∀ s : State,
    ((s.reqId.toNat < 1 ∨ 247 < s.reqId.toNat) →
      exec .txBuild s = .next (faulted .badValue s))
    ∧ (1 ≤ s.reqId.toNat → s.reqId.toNat ≤ 247 →
        ∃ (t : State) (body : List Byte) (c : Half),
          exec .txBuild s = .next t
          ∧ body = [s.reqId, 0x03#8, (s.reqAddr >>> 8).setWidth 8, s.reqAddr.setWidth 8,
              (s.reqCnt >>> 8).setWidth 8, s.reqCnt.setWidth 8]
          ∧ c = crc16Modbus body
          ∧ txFrame t = .ok (body ++ [c.setWidth 8, (c >>> 8).setWidth 8])
          ∧ (∀ i, 8 ≤ i → Memory.read t.txBuf i = Memory.read s.txBuf i)
          ∧ t = answered 0#32
              { s with
                txBuf := t.txBuf, txValid := true, txPtr := 0#4
                rxLen := 0, rxOvf := false, result := .none, fcMatch := false, bcMatch := false }
          ∧ exec (.rd 0x09#8) t
              = .next (answered (BitVec.ofNat 32 (5 + 2 * s.reqCnt.toNat)) t)))
  ∧ FormatZ 0x20#8 .txBuild

/-- 42_request_serializer.md R108: `TX.RDB` returns a byte of the built request and writes nothing;
`BAD_SEQ` without a request wins over `BAD_INDEX` past index 7. -/
def Obligations.TxRdbReadsRequestByte : Prop :=
  (∀ (s : State) (idx : Half),
    (s.txValid = false → exec (.txRdb idx) s = .next (faulted .badSeq s))
    ∧ (s.txValid = true → 7 < idx.toNat → exec (.txRdb idx) s = .next (faulted .badIndex s))
    ∧ (∀ b : Byte, s.txValid = true → idx.toNat ≤ 7 → readTx s idx.toNat = .ok b →
        exec (.txRdb idx) s = .next (answered (b.setWidth 32) s)))
  ∧ FormatI 0x21#8 .txRdb

/-- 42_request_serializer.md R109: `TX.NEXT` returns the byte at `TX_PTR` and advances it; without a
request, or at 8, it raises `BAD_SEQ`; eight of them from `TX_PTR` = 0 return the eight bytes of the
request in order, and the ninth faults; only `TX.BUILD` and `RST` rewind the pointer. -/
def Obligations.TxNextHandsOutRequest : Prop :=
  (∀ s : State,
    (s.txValid = false → exec .txNext s = .next (faulted .badSeq s))
    ∧ (s.txValid = true → s.txPtr = 8#4 → exec .txNext s = .next (faulted .badSeq s))
    ∧ (∀ b : Byte, s.txValid = true → s.txPtr ≠ 8#4 → readTx s s.txPtr.toNat = .ok b →
        exec .txNext s = .next (answered (b.setWidth 32) { s with txPtr := s.txPtr + 1#4 }))
    ∧ (∀ f : List Byte, s.txValid = true → s.txPtr = 0#4 → txFrame s = .ok f →
        ∃ t, execAll (List.replicate 8 .txNext) s = .next t
          ∧ t = { s with
                  txPtr := 8#4
                  responses := s.responses ++ f.map fun b => ⟨none, b.setWidth 32⟩ }
          ∧ exec .txNext t = .next (faulted .badSeq t)))
  ∧ (∀ (i : Instr) (s t : State), exec i s = .next t → i ≠ .txBuild → i ≠ .rst →
      s.txPtr.toNat ≤ t.txPtr.toNat)
  ∧ FormatZ 0x22#8 .txNext

/-! ## Response parser -/

/-- 43_response_parser.md R121: `RX.CLR` empties the receive side and leaves the built request and
all else; `RX_COMPLETE` is then 0. -/
def Obligations.RxClrEmptiesReceiveSide : Prop :=
  (∀ s : State, exec .rxClr s = .next (answered 0#32
    { s with
      rxLen := 0, rxOvf := false, result := .none, fcMatch := false, bcMatch := false }))
  ∧ (∀ (s t : State) (n : Nat), exec .rxClr s = .next t → expLen t = .ok n →
      rxComplete t = .ok false)
  ∧ FormatZ 0x30#8 .rxClr

/-- 43_response_parser.md R122: `RX.PUSH` appends the byte at `RX_LEN` and changes no other cell; at
a full buffer the byte is dropped and `RX_OVF` set; while a verdict stands it raises `BAD_SEQ`. -/
def Obligations.RxPushAppendsByte : Prop :=
  (∀ (s : State) (b : Byte),
    (s.result ≠ .none → exec (.rxPush b) s = .next (faulted .badSeq s))
    ∧ (s.result = .none → s.rxLen < s.params.rxcap →
        ∃ t, exec (.rxPush b) s = .next t
          ∧ readRx t s.rxLen = .ok b
          ∧ (∀ i, i ≠ s.rxLen → Memory.read t.rxBuf i = Memory.read s.rxBuf i)
          ∧ t = answered 0#32 { s with rxBuf := t.rxBuf, rxLen := s.rxLen + 1 })
    ∧ (s.result = .none → s.params.rxcap ≤ s.rxLen →
        exec (.rxPush b) s = .next (answered 0#32 { s with rxOvf := true })))
  ∧ FormatB 0x31#8 .rxPush

/-- 43_response_parser.md R124 and R125: the verdict of `RX.CHECK`, its tests in their order, and
the two informational flags. A short or overrun response is judged without looking at a byte; with
no built request the command raises `BAD_SEQ`. -/
def Obligations.RxCheckJudgesResponse : Prop :=
  (∀ s : State,
    (s.txValid = false → exec .rxCheck s = .next (faulted .badSeq s))
    ∧ (s.txValid = true → s.rxLen < 5 →
        exec .rxCheck s = .next (answered 2#32
          { s with result := .short, fcMatch := false, bcMatch := false }))
    ∧ (s.txValid = true → 5 ≤ s.rxLen → s.rxOvf = true →
        exec .rxCheck s = .next (answered 5#32
          { s with result := .overrun, fcMatch := false, bcMatch := false }))
    ∧ (∀ (rx : List Byte) (c : Half) (id fc : Byte),
        s.txValid = true → 5 ≤ s.rxLen → s.rxOvf = false → rxFrame s = .ok rx →
        readTx s 0 = .ok id → readTx s 1 = .ok fc → c = crc16Modbus (rx.take (s.rxLen - 2)) →
        exec .rxCheck s = .next
          (if rx.getD (s.rxLen - 2) 0#8 ≠ c.setWidth 8
              ∨ rx.getD (s.rxLen - 1) 0#8 ≠ (c >>> 8).setWidth 8 then
            answered 3#32 { s with result := .crc, fcMatch := false, bcMatch := false }
          else if rx.getD 0 0#8 ≠ id then
            answered 4#32 { s with result := .addr, fcMatch := false, bcMatch := false }
          else
            answered 1#32
              { s with
                result := .ok
                fcMatch := rx.getD 1 0#8 == fc
                bcMatch := (rx.getD 2 0#8).toNat == s.rxLen - 5 })))
  ∧ FormatZ 0x32#8 .rxCheck

/-- 43_response_parser.md R125: `RX.CHECK` issued again while a verdict stands gives the same
verdict and flags. -/
def Obligations.RxCheckRepeatable : Prop :=
  ∀ s : State, VerdictCurrent s → s.txValid = true → s.result ≠ .none →
    exec .rxCheck s = .next (answered (BitVec.ofNat 32 (verdictNumber s.result)) s)

/-- 43_response_parser.md R130 item 1: if a response is accepted, the same bytes with any single bit
inverted get the verdict `CRC`. -/
def Obligations.FlippedBitRejectedByCrc : Prop :=
  ∀ (s t : State) (k j : Nat) (b : Byte),
    s.txValid = true → exec .rxCheck s = .next t → t.result = .ok →
    k < s.rxLen → j < 8 → readRx s k = .ok b →
    ∃ u, exec .rxCheck { s with rxBuf := Memory.write s.rxBuf k (b ^^^ (1#8 <<< j)) } = .next u
      ∧ u.result = .crc

/-- 43_response_parser.md R127: `RX.RDB` returns a received byte, whatever the verdict, and writes
nothing; at or past `RX_LEN` it raises `BAD_INDEX`. -/
def Obligations.RxRdbReadsReceivedByte : Prop :=
  (∀ (s : State) (idx : Half),
    (s.rxLen ≤ idx.toNat → exec (.rxRdb idx) s = .next (faulted .badIndex s))
    ∧ (∀ b : Byte, idx.toNat < s.rxLen → readRx s idx.toNat = .ok b →
        exec (.rxRdb idx) s = .next (answered (b.setWidth 32) s)))
  ∧ FormatI 0x33#8 .rxRdb

/-- 43_response_parser.md R129: `RX.REG` returns register `idx` of an accepted response, big-endian
and unsigned, and writes nothing; without the verdict `OK` it raises `BAD_SEQ`, past the last
register `BAD_INDEX`. -/
def Obligations.RxRegDeliversRegister : Prop :=
  (∀ (s : State) (idx : Half),
    (s.result ≠ .ok → exec (.rxReg idx) s = .next (faulted .badSeq s))
    ∧ (s.result = .ok → (s.rxLen - 5) / 2 ≤ idx.toNat →
        exec (.rxReg idx) s = .next (faulted .badIndex s))
    ∧ (∀ hi lo : Byte, s.result = .ok → idx.toNat < (s.rxLen - 5) / 2 →
        readRx s (3 + 2 * idx.toNat) = .ok hi → readRx s (4 + 2 * idx.toNat) = .ok lo →
        exec (.rxReg idx) s
          = .next (answered (BitVec.ofNat 32 (hi.toNat * 256 + lo.toNat)) s)))
  ∧ FormatI 0x34#8 .rxReg

/-- 43_response_parser.md R130 item 3: under the invariants an accepted response with `N` payload
bytes delivers exactly `N div 2` registers. -/
def Obligations.AcceptedResponseDeliversRegisters : Prop :=
  ∀ (s : State) (idx : Half), StateInv s → s.result = .ok →
    (idx.toNat < (s.rxLen - 5) / 2 →
      ∃ v, v.toNat < 65536 ∧ exec (.rxReg idx) s = .next (answered v s))
    ∧ ((s.rxLen - 5) / 2 ≤ idx.toNat → exec (.rxReg idx) s = .next (faulted .badIndex s))

/-- 70_reset_and_hazards.md R176: a request whose expected length exceeds `RXCAP` never reaches
`RX_COMPLETE`, whatever is received. -/
def Obligations.NeverCompleteBeyondCapacity : Prop :=
  ∀ (s : State) (n : Nat), StateInv s → s.txValid = true → expLen s = .ok n → s.params.rxcap < n →
    ∃ w : Word, exec (.rd 0x00#8) s = .next (answered w s) ∧ w.getLsbD 2 = false

/-! ## Command faults and responses -/

/-- 60_exceptions.md R146: a command that ends with a fault sets that fault's bit of `FAULTS`,
answers `(code, 0)`, and changes no other state element. -/
def Obligations.CommandFaultIsPrecise : Prop :=
  ∀ (i : Instr) (s t : State) (c : CmdFault) (d : Word),
    exec i s = .next t → t.responses = s.responses ++ [⟨some c, d⟩] → t = faulted c s

/-- 60_exceptions.md R148: the faults each command can raise, no more and no fewer (`ILLEGAL_OP`
belongs to words that are no command). -/
def Obligations.FaultsOfEachCommand : Prop :=
  ∀ (m : Command) (c : CmdFault),
    c ∈ mayRaise m ↔
      ∃ (i : Instr) (s t : State), i.command = m ∧ exec i s = .next t
        ∧ t.responses = s.responses ++ [⟨some c, 0#32⟩]

/-- 30_encoding.md R61: every command that completes gives exactly one response; its data is 0 when
it faults or returns nothing, and otherwise fits what the command returns. -/
def Obligations.OneResponsePerCommand : Prop :=
  ∀ (i : Instr) (s t : State), exec i s = .next t →
    ∃ r : Response, t.responses = s.responses ++ [r]
      ∧ (r.fault ≠ none → r.data = 0#32)
      ∧ r.data.toNat < returnBound i.command
      ∧ r.rspFault.toNat ≤ 5

/-- 10_state.md R26, 60_exceptions.md R156: only `RST` and `rst` clear a bit of `FAULTS`. -/
def Obligations.FaultsStickyUntilReset : Prop :=
  ∀ (s t : State) (n : Nat), step s = .next t →
    s.inputs.head? ≠ some .resetPin → s.inputs.head? ≠ some (.command 0x03000000#32) →
    s.faults.getLsbD n = true → t.faults.getLsbD n = true

/-- 10_state.md R31: which command writes which state element, column by column; a command writes no
element that its row leaves blank. -/
def Obligations.WriteTable : Prop :=
  ∀ (i : Instr) (s t : State), exec i s = .next t →
    (i.command ∉ [Command.rst, .crcInit, .crcUpd] → t.crc = s.crc)
    ∧ (i.command ∉ [Command.wr, .rst] →
        t.reqId = s.reqId ∧ t.reqAddr = s.reqAddr ∧ t.reqCnt = s.reqCnt)
    ∧ (i.command ≠ Command.txBuild → t.txBuf = s.txBuf)
    ∧ (i.command ∉ [Command.rst, .txBuild] → t.txValid = s.txValid)
    ∧ (i.command ∉ [Command.rst, .txBuild, .txNext] → t.txPtr = s.txPtr)
    ∧ (i.command ≠ Command.rxPush → t.rxBuf = s.rxBuf)
    ∧ (i.command ∉ [Command.rst, .txBuild, .rxClr, .rxPush] →
        t.rxLen = s.rxLen ∧ t.rxOvf = s.rxOvf)
    ∧ (i.command ∉ [Command.rst, .txBuild, .rxClr, .rxCheck] →
        t.result = s.result ∧ t.fcMatch = s.fcMatch ∧ t.bcMatch = s.bcMatch)
    ∧ (i.command ≠ Command.rst → mayRaise i.command = [] → t.faults = s.faults)
    ∧ t.params = s.params
    ∧ t.inputs = s.inputs

/-- 20_memory.md R45: `RD`, `TX.RDB`, `RX.RDB` and `RX.REG` are idempotent: a fault-free read
changes nothing, and repeating it returns the same value. -/
def Obligations.ReadsAreIdempotent : Prop :=
  ∀ (i : Instr) (s t : State) (d : Word),
    i.command ∈ [Command.rd, .txRdb, .rxRdb, .rxReg] → exec i s = .next t →
    t.responses = s.responses ++ [⟨none, d⟩] →
    t = answered d s ∧ exec i t = .next (answered d t)

/-! ## Invariants -/

/-- The reset state meets the invariants of 10_state.md R33 and the two others the statements use. -/
def Obligations.ResetMeetsInvariants : Prop :=
  StateInv State.reset ∧ VerdictCurrent State.reset ∧ Canonical State.reset

/-- 10_state.md R33: its invariants hold in the reset state, whatever the parameters, and every step
keeps them, so they hold in every reachable state. -/
def Obligations.StepKeepsInvariants : Prop :=
  (∀ p : Params, StateInv (State.resetWith p))
  ∧ ∀ s t : State, StateInv s → step s = .next t → StateInv t

/-- 43_response_parser.md R125, 10_state.md R33: every step keeps it that a standing verdict
describes the bytes in the buffer. -/
def Obligations.StepKeepsVerdictCurrent : Prop :=
  ∀ s t : State, VerdictCurrent s → step s = .next t → VerdictCurrent t

/-- 20_memory.md R40, R46: every step keeps both buffers in canonical form and inside their index
spaces, and the parameters legal. The canonical form is the model's (log 5). -/
def Obligations.StepKeepsCanonicalBuffers : Prop :=
  ∀ s t : State, Canonical s → step s = .next t → Canonical t

/-- 70_reset_and_hazards.md R168, 00_scope.md R9: under the invariants every step answers a next
state: no read of an unwritten cell ever stops the machine. That such a read would stop it is the
model's choice (log 5, log 6). -/
def Obligations.StepNeverStops : Prop :=
  ∀ s : State, StateInv s → ∃ t, step s = .next t

/-- 10_state.md R36, 70_reset_and_hazards.md R168: what a cell that no command can read holds never
reaches a response or a state element: two states that differ only in such cells take steps that
differ only in such cells. -/
def Obligations.UnreadableCellsNeverObserved : Prop :=
  ∀ s t : State, SameVisible s t → SameOutcome (step s) (step t)
end

