-- ==== Sys2Proof/Laws/Decode.lean ====
section
/-! SUPPORT. The fields of a packed word, and a word packed from its fields. -/

namespace Sys2Proof

/-- The bits of two bytes put together, the first on the left. -/
theorem getLsbD_bytes (hi lo : Byte) (i : Nat) :
    BitVec.getLsbD (hi ++ lo : Half) i = if i < 8 then lo.getLsbD i else hi.getLsbD (i - 8) := by
  show BitVec.getLsbD (w := 8 + 8) (hi ++ lo) i = _
  rw [BitVec.getLsbD_append]

/-- The bits of a packed word (30_encoding.md R56). -/
theorem getLsbD_packWord (op sel : Byte) (data : Half) (i : Nat) :
    (packWord op sel data).getLsbD i =
      if i < 16 then data.getLsbD i
      else if i < 24 then sel.getLsbD (i - 16) else op.getLsbD (i - 24) := by
  show BitVec.getLsbD (w := 8 + 8 + 16) ((op ++ sel) ++ data) i = _
  rw [BitVec.getLsbD_append, BitVec.getLsbD_append]
  by_cases h : i < 16
  · simp [h]
  · have h8 : i - 16 < 8 ↔ i < 24 := by omega
    have h24 : i - 16 - 8 = i - 24 := by omega
    simp [h, h8, h24]

@[simp] theorem opField_packWord (op sel : Byte) (data : Half) :
    opField (packWord op sel data) = op := by
  apply BitVec.eq_of_getLsbD_eq
  intro i hi
  rw [opField, BitVec.getLsbD_extractLsb', getLsbD_packWord]
  have h1 : ¬ 24 + i < 16 := by omega
  have h2 : ¬ 24 + i < 24 := by omega
  have h3 : 24 + i - 24 = i := by omega
  simp [h1, h2, h3, hi]

@[simp] theorem selField_packWord (op sel : Byte) (data : Half) :
    selField (packWord op sel data) = sel := by
  apply BitVec.eq_of_getLsbD_eq
  intro i hi
  rw [selField, BitVec.getLsbD_extractLsb', getLsbD_packWord]
  have h1 : ¬ 16 + i < 16 := by omega
  have h2 : 16 + i < 24 := by omega
  have h3 : 16 + i - 16 = i := by omega
  simp [h1, h2, h3, hi]

@[simp] theorem dataField_packWord (op sel : Byte) (data : Half) :
    dataField (packWord op sel data) = data := by
  apply BitVec.eq_of_getLsbD_eq
  intro i hi
  rw [dataField, BitVec.getLsbD_extractLsb', getLsbD_packWord]
  simp [hi]

@[simp] theorem packWord_fields (w : Word) :
    packWord (opField w) (selField w) (dataField w) = w := by
  apply BitVec.eq_of_getLsbD_eq
  intro i hi
  rw [getLsbD_packWord]
  simp only [opField, selField, dataField, BitVec.getLsbD_extractLsb']
  by_cases h1 : i < 16
  · simp [h1]
  · by_cases h2 : i < 24
    · have h3 : 16 + (i - 16) = i := by omega
      have h4 : i - 16 < 8 := by omega
      simp [h1, h2, h3, h4]
    · have h3 : 24 + (i - 24) = i := by omega
      have h4 : i - 24 < 8 := by omega
      simp [h1, h2, h3, h4]

/-- Words are equal when their fields are. -/
theorem packWord_inj {op op' sel sel' : Byte} {data data' : Half} :
    packWord op sel data = packWord op' sel' data' ↔ op = op' ∧ sel = sel' ∧ data = data' := by
  constructor
  · intro e
    refine ⟨?_, ?_, ?_⟩
    · simpa using congrArg opField e
    · simpa using congrArg selField e
    · simpa using congrArg dataField e
  · rintro ⟨rfl, rfl, rfl⟩
    rfl

/-- Masking a packed word masks its fields. -/
theorem packWord_and (op op' sel sel' : Byte) (data data' : Half) :
    packWord op sel data &&& packWord op' sel' data'
      = packWord (op &&& op') (sel &&& sel') (data &&& data') := by
  apply BitVec.eq_of_getLsbD_eq
  intro i hi
  rw [BitVec.getLsbD_and, getLsbD_packWord, getLsbD_packWord, getLsbD_packWord]
  split
  · rw [BitVec.getLsbD_and]
  · split <;> rw [BitVec.getLsbD_and]

@[simp] theorem loByte_bytes (hi lo : Byte) : loByte (hi ++ lo) = lo := by
  apply BitVec.eq_of_getLsbD_eq
  intro i hi'
  rw [loByte, BitVec.getLsbD_extractLsb', getLsbD_bytes]
  simp [hi']

@[simp] theorem hiByte_bytes (hi lo : Byte) : hiByte (hi ++ lo) = hi := by
  apply BitVec.eq_of_getLsbD_eq
  intro i hi'
  rw [hiByte, BitVec.getLsbD_extractLsb', getLsbD_bytes]
  have h1 : ¬ 8 + i < 8 := by omega
  have h2 : 8 + i - 8 = i := by omega
  simp [h1, h2, hi']

/-- The two bytes of a 16-bit value, high byte on the left, are the value. -/
@[simp] theorem hiByte_append_loByte (v : Half) : (hiByte v ++ loByte v : Half) = v := by
  apply BitVec.eq_of_getLsbD_eq
  intro i hi
  rw [getLsbD_bytes]
  simp only [hiByte, loByte, BitVec.getLsbD_extractLsb']
  by_cases h1 : i < 8
  · simp [h1]
  · have h3 : 8 + (i - 8) = i := by omega
    have h4 : i - 8 < 8 := by omega
    simp [h1, h3, h4]

@[simp] theorem loByte_byteData (b : Byte) : loByte (byteData b) = b := loByte_bytes 0#8 b

@[simp] theorem hiByte_byteData (b : Byte) : hiByte (byteData b) = 0#8 := hiByte_bytes 0#8 b

/-- A 16-bit value whose high byte is 0 is its low byte as an operand. -/
theorem byteData_loByte {v : Half} (h : hiByte v = 0#8) : byteData (loByte v) = v := by
  conv_rhs => rw [← hiByte_append_loByte v, h]
  rfl

/-! ## The decoder -/

/-- The opcode a command is encoded with. -/
theorem opField_encode (i : Instr) : commandOf (opField (encode i)) = some i.command := by
  cases i <;> simp only [encode, opField_packWord] <;> rfl

/-- When the decoder gives an instruction. -/
theorem decode_ok {w : Word} {i : Instr} :
    decode w = .ok i ↔
      ∃ c, commandOf (opField w) = some c ∧ mustBeZeroHolds (formatOf c) w = true
        ∧ assemble c w = i := by
  unfold decode
  cases commandOf (opField w) with
  | none => simp
  | some c => by_cases h : mustBeZeroHolds (formatOf c) w = true <;> simp [h]

/-- The command of an assembled instruction. -/
@[simp] theorem command_assemble (c : Command) (w : Word) : (assemble c w).command = c := by
  cases c <;> rfl

end Sys2Proof
end

