-- ==== Sys2Proof/Laws/State.lean ====
section
/-! SUPPORT. One lemma per field of State for each named update, so that no proof unfolds a record
update. -/

namespace Sys2Proof.Machine

/-! ## respond -/

@[simp] theorem respond_params (d : Word) (s : State) :
    (respond d s).params = s.params := rfl

@[simp] theorem respond_crc (d : Word) (s : State) :
    (respond d s).crc = s.crc := rfl

@[simp] theorem respond_reqId (d : Word) (s : State) :
    (respond d s).reqId = s.reqId := rfl

@[simp] theorem respond_reqAddr (d : Word) (s : State) :
    (respond d s).reqAddr = s.reqAddr := rfl

@[simp] theorem respond_reqCnt (d : Word) (s : State) :
    (respond d s).reqCnt = s.reqCnt := rfl

@[simp] theorem respond_txBuf (d : Word) (s : State) :
    (respond d s).txBuf = s.txBuf := rfl

@[simp] theorem respond_txValid (d : Word) (s : State) :
    (respond d s).txValid = s.txValid := rfl

@[simp] theorem respond_txPtr (d : Word) (s : State) :
    (respond d s).txPtr = s.txPtr := rfl

@[simp] theorem respond_rxBuf (d : Word) (s : State) :
    (respond d s).rxBuf = s.rxBuf := rfl

@[simp] theorem respond_rxLen (d : Word) (s : State) :
    (respond d s).rxLen = s.rxLen := rfl

@[simp] theorem respond_rxOvf (d : Word) (s : State) :
    (respond d s).rxOvf = s.rxOvf := rfl

@[simp] theorem respond_result (d : Word) (s : State) :
    (respond d s).result = s.result := rfl

@[simp] theorem respond_fcMatch (d : Word) (s : State) :
    (respond d s).fcMatch = s.fcMatch := rfl

@[simp] theorem respond_bcMatch (d : Word) (s : State) :
    (respond d s).bcMatch = s.bcMatch := rfl

@[simp] theorem respond_faults (d : Word) (s : State) :
    (respond d s).faults = s.faults := rfl

@[simp] theorem respond_inputs (d : Word) (s : State) :
    (respond d s).inputs = s.inputs := rfl

@[simp] theorem respond_responses (d : Word) (s : State) :
    (respond d s).responses = s.responses ++ [⟨none, d⟩] := rfl

/-! ## raiseFault -/

@[simp] theorem raiseFault_params (c : CmdFault) (s : State) :
    (raiseFault c s).params = s.params := rfl

@[simp] theorem raiseFault_crc (c : CmdFault) (s : State) :
    (raiseFault c s).crc = s.crc := rfl

@[simp] theorem raiseFault_reqId (c : CmdFault) (s : State) :
    (raiseFault c s).reqId = s.reqId := rfl

@[simp] theorem raiseFault_reqAddr (c : CmdFault) (s : State) :
    (raiseFault c s).reqAddr = s.reqAddr := rfl

@[simp] theorem raiseFault_reqCnt (c : CmdFault) (s : State) :
    (raiseFault c s).reqCnt = s.reqCnt := rfl

@[simp] theorem raiseFault_txBuf (c : CmdFault) (s : State) :
    (raiseFault c s).txBuf = s.txBuf := rfl

@[simp] theorem raiseFault_txValid (c : CmdFault) (s : State) :
    (raiseFault c s).txValid = s.txValid := rfl

@[simp] theorem raiseFault_txPtr (c : CmdFault) (s : State) :
    (raiseFault c s).txPtr = s.txPtr := rfl

@[simp] theorem raiseFault_rxBuf (c : CmdFault) (s : State) :
    (raiseFault c s).rxBuf = s.rxBuf := rfl

@[simp] theorem raiseFault_rxLen (c : CmdFault) (s : State) :
    (raiseFault c s).rxLen = s.rxLen := rfl

@[simp] theorem raiseFault_rxOvf (c : CmdFault) (s : State) :
    (raiseFault c s).rxOvf = s.rxOvf := rfl

@[simp] theorem raiseFault_result (c : CmdFault) (s : State) :
    (raiseFault c s).result = s.result := rfl

@[simp] theorem raiseFault_fcMatch (c : CmdFault) (s : State) :
    (raiseFault c s).fcMatch = s.fcMatch := rfl

@[simp] theorem raiseFault_bcMatch (c : CmdFault) (s : State) :
    (raiseFault c s).bcMatch = s.bcMatch := rfl

@[simp] theorem raiseFault_faults (c : CmdFault) (s : State) :
    (raiseFault c s).faults = s.faults ||| faultBit c := rfl

@[simp] theorem raiseFault_inputs (c : CmdFault) (s : State) :
    (raiseFault c s).inputs = s.inputs := rfl

@[simp] theorem raiseFault_responses (c : CmdFault) (s : State) :
    (raiseFault c s).responses = s.responses ++ [⟨some c, 0#32⟩] := rfl

/-! ## clearReceive -/

@[simp] theorem clearReceive_params (s : State) :
    (clearReceive s).params = s.params := rfl

@[simp] theorem clearReceive_crc (s : State) :
    (clearReceive s).crc = s.crc := rfl

@[simp] theorem clearReceive_reqId (s : State) :
    (clearReceive s).reqId = s.reqId := rfl

@[simp] theorem clearReceive_reqAddr (s : State) :
    (clearReceive s).reqAddr = s.reqAddr := rfl

@[simp] theorem clearReceive_reqCnt (s : State) :
    (clearReceive s).reqCnt = s.reqCnt := rfl

@[simp] theorem clearReceive_txBuf (s : State) :
    (clearReceive s).txBuf = s.txBuf := rfl

@[simp] theorem clearReceive_txValid (s : State) :
    (clearReceive s).txValid = s.txValid := rfl

@[simp] theorem clearReceive_txPtr (s : State) :
    (clearReceive s).txPtr = s.txPtr := rfl

@[simp] theorem clearReceive_rxBuf (s : State) :
    (clearReceive s).rxBuf = s.rxBuf := rfl

@[simp] theorem clearReceive_rxLen (s : State) :
    (clearReceive s).rxLen = 0 := rfl

@[simp] theorem clearReceive_rxOvf (s : State) :
    (clearReceive s).rxOvf = false := rfl

@[simp] theorem clearReceive_result (s : State) :
    (clearReceive s).result = .none := rfl

@[simp] theorem clearReceive_fcMatch (s : State) :
    (clearReceive s).fcMatch = false := rfl

@[simp] theorem clearReceive_bcMatch (s : State) :
    (clearReceive s).bcMatch = false := rfl

@[simp] theorem clearReceive_faults (s : State) :
    (clearReceive s).faults = s.faults := rfl

@[simp] theorem clearReceive_inputs (s : State) :
    (clearReceive s).inputs = s.inputs := rfl

@[simp] theorem clearReceive_responses (s : State) :
    (clearReceive s).responses = s.responses := rfl

/-! ## resetRegisters -/

@[simp] theorem resetRegisters_params (s : State) :
    (resetRegisters s).params = s.params := rfl

@[simp] theorem resetRegisters_crc (s : State) :
    (resetRegisters s).crc = 0xFFFF#16 := rfl

@[simp] theorem resetRegisters_reqId (s : State) :
    (resetRegisters s).reqId = 0#8 := rfl

@[simp] theorem resetRegisters_reqAddr (s : State) :
    (resetRegisters s).reqAddr = 0#16 := rfl

@[simp] theorem resetRegisters_reqCnt (s : State) :
    (resetRegisters s).reqCnt = 0#16 := rfl

@[simp] theorem resetRegisters_txBuf (s : State) :
    (resetRegisters s).txBuf = s.txBuf := rfl

@[simp] theorem resetRegisters_txValid (s : State) :
    (resetRegisters s).txValid = false := rfl

@[simp] theorem resetRegisters_txPtr (s : State) :
    (resetRegisters s).txPtr = 0#4 := rfl

@[simp] theorem resetRegisters_rxBuf (s : State) :
    (resetRegisters s).rxBuf = s.rxBuf := rfl

@[simp] theorem resetRegisters_rxLen (s : State) :
    (resetRegisters s).rxLen = s.rxLen := rfl

@[simp] theorem resetRegisters_rxOvf (s : State) :
    (resetRegisters s).rxOvf = s.rxOvf := rfl

@[simp] theorem resetRegisters_result (s : State) :
    (resetRegisters s).result = s.result := rfl

@[simp] theorem resetRegisters_fcMatch (s : State) :
    (resetRegisters s).fcMatch = s.fcMatch := rfl

@[simp] theorem resetRegisters_bcMatch (s : State) :
    (resetRegisters s).bcMatch = s.bcMatch := rfl

@[simp] theorem resetRegisters_faults (s : State) :
    (resetRegisters s).faults = 0#6 := rfl

@[simp] theorem resetRegisters_inputs (s : State) :
    (resetRegisters s).inputs = s.inputs := rfl

@[simp] theorem resetRegisters_responses (s : State) :
    (resetRegisters s).responses = s.responses := rfl

/-! ## loadRequest -/

@[simp] theorem loadRequest_params (frame : List Byte) (s : State) :
    (loadRequest frame s).params = s.params := rfl

@[simp] theorem loadRequest_crc (frame : List Byte) (s : State) :
    (loadRequest frame s).crc = s.crc := rfl

@[simp] theorem loadRequest_reqId (frame : List Byte) (s : State) :
    (loadRequest frame s).reqId = s.reqId := rfl

@[simp] theorem loadRequest_reqAddr (frame : List Byte) (s : State) :
    (loadRequest frame s).reqAddr = s.reqAddr := rfl

@[simp] theorem loadRequest_reqCnt (frame : List Byte) (s : State) :
    (loadRequest frame s).reqCnt = s.reqCnt := rfl

@[simp] theorem loadRequest_txBuf (frame : List Byte) (s : State) :
    (loadRequest frame s).txBuf = Memory.writeFrom s.txBuf 0 frame := rfl

@[simp] theorem loadRequest_txValid (frame : List Byte) (s : State) :
    (loadRequest frame s).txValid = true := rfl

@[simp] theorem loadRequest_txPtr (frame : List Byte) (s : State) :
    (loadRequest frame s).txPtr = 0#4 := rfl

@[simp] theorem loadRequest_rxBuf (frame : List Byte) (s : State) :
    (loadRequest frame s).rxBuf = s.rxBuf := rfl

@[simp] theorem loadRequest_rxLen (frame : List Byte) (s : State) :
    (loadRequest frame s).rxLen = s.rxLen := rfl

@[simp] theorem loadRequest_rxOvf (frame : List Byte) (s : State) :
    (loadRequest frame s).rxOvf = s.rxOvf := rfl

@[simp] theorem loadRequest_result (frame : List Byte) (s : State) :
    (loadRequest frame s).result = s.result := rfl

@[simp] theorem loadRequest_fcMatch (frame : List Byte) (s : State) :
    (loadRequest frame s).fcMatch = s.fcMatch := rfl

@[simp] theorem loadRequest_bcMatch (frame : List Byte) (s : State) :
    (loadRequest frame s).bcMatch = s.bcMatch := rfl

@[simp] theorem loadRequest_faults (frame : List Byte) (s : State) :
    (loadRequest frame s).faults = s.faults := rfl

@[simp] theorem loadRequest_inputs (frame : List Byte) (s : State) :
    (loadRequest frame s).inputs = s.inputs := rfl

@[simp] theorem loadRequest_responses (frame : List Byte) (s : State) :
    (loadRequest frame s).responses = s.responses := rfl

/-! ## appendByte -/

@[simp] theorem appendByte_params (b : Byte) (s : State) :
    (appendByte b s).params = s.params := rfl

@[simp] theorem appendByte_crc (b : Byte) (s : State) :
    (appendByte b s).crc = s.crc := rfl

@[simp] theorem appendByte_reqId (b : Byte) (s : State) :
    (appendByte b s).reqId = s.reqId := rfl

@[simp] theorem appendByte_reqAddr (b : Byte) (s : State) :
    (appendByte b s).reqAddr = s.reqAddr := rfl

@[simp] theorem appendByte_reqCnt (b : Byte) (s : State) :
    (appendByte b s).reqCnt = s.reqCnt := rfl

@[simp] theorem appendByte_txBuf (b : Byte) (s : State) :
    (appendByte b s).txBuf = s.txBuf := rfl

@[simp] theorem appendByte_txValid (b : Byte) (s : State) :
    (appendByte b s).txValid = s.txValid := rfl

@[simp] theorem appendByte_txPtr (b : Byte) (s : State) :
    (appendByte b s).txPtr = s.txPtr := rfl

@[simp] theorem appendByte_rxBuf (b : Byte) (s : State) :
    (appendByte b s).rxBuf = Memory.write s.rxBuf s.rxLen b := rfl

@[simp] theorem appendByte_rxLen (b : Byte) (s : State) :
    (appendByte b s).rxLen = s.rxLen + 1 := rfl

@[simp] theorem appendByte_rxOvf (b : Byte) (s : State) :
    (appendByte b s).rxOvf = s.rxOvf := rfl

@[simp] theorem appendByte_result (b : Byte) (s : State) :
    (appendByte b s).result = s.result := rfl

@[simp] theorem appendByte_fcMatch (b : Byte) (s : State) :
    (appendByte b s).fcMatch = s.fcMatch := rfl

@[simp] theorem appendByte_bcMatch (b : Byte) (s : State) :
    (appendByte b s).bcMatch = s.bcMatch := rfl

@[simp] theorem appendByte_faults (b : Byte) (s : State) :
    (appendByte b s).faults = s.faults := rfl

@[simp] theorem appendByte_inputs (b : Byte) (s : State) :
    (appendByte b s).inputs = s.inputs := rfl

@[simp] theorem appendByte_responses (b : Byte) (s : State) :
    (appendByte b s).responses = s.responses := rfl

/-! ## setVerdict -/

@[simp] theorem setVerdict_params (v : Verdict) (fc bc : Bool) (s : State) :
    (setVerdict v fc bc s).params = s.params := rfl

@[simp] theorem setVerdict_crc (v : Verdict) (fc bc : Bool) (s : State) :
    (setVerdict v fc bc s).crc = s.crc := rfl

@[simp] theorem setVerdict_reqId (v : Verdict) (fc bc : Bool) (s : State) :
    (setVerdict v fc bc s).reqId = s.reqId := rfl

@[simp] theorem setVerdict_reqAddr (v : Verdict) (fc bc : Bool) (s : State) :
    (setVerdict v fc bc s).reqAddr = s.reqAddr := rfl

@[simp] theorem setVerdict_reqCnt (v : Verdict) (fc bc : Bool) (s : State) :
    (setVerdict v fc bc s).reqCnt = s.reqCnt := rfl

@[simp] theorem setVerdict_txBuf (v : Verdict) (fc bc : Bool) (s : State) :
    (setVerdict v fc bc s).txBuf = s.txBuf := rfl

@[simp] theorem setVerdict_txValid (v : Verdict) (fc bc : Bool) (s : State) :
    (setVerdict v fc bc s).txValid = s.txValid := rfl

@[simp] theorem setVerdict_txPtr (v : Verdict) (fc bc : Bool) (s : State) :
    (setVerdict v fc bc s).txPtr = s.txPtr := rfl

@[simp] theorem setVerdict_rxBuf (v : Verdict) (fc bc : Bool) (s : State) :
    (setVerdict v fc bc s).rxBuf = s.rxBuf := rfl

@[simp] theorem setVerdict_rxLen (v : Verdict) (fc bc : Bool) (s : State) :
    (setVerdict v fc bc s).rxLen = s.rxLen := rfl

@[simp] theorem setVerdict_rxOvf (v : Verdict) (fc bc : Bool) (s : State) :
    (setVerdict v fc bc s).rxOvf = s.rxOvf := rfl

@[simp] theorem setVerdict_result (v : Verdict) (fc bc : Bool) (s : State) :
    (setVerdict v fc bc s).result = v := rfl

@[simp] theorem setVerdict_fcMatch (v : Verdict) (fc bc : Bool) (s : State) :
    (setVerdict v fc bc s).fcMatch = fc := rfl

@[simp] theorem setVerdict_bcMatch (v : Verdict) (fc bc : Bool) (s : State) :
    (setVerdict v fc bc s).bcMatch = bc := rfl

@[simp] theorem setVerdict_faults (v : Verdict) (fc bc : Bool) (s : State) :
    (setVerdict v fc bc s).faults = s.faults := rfl

@[simp] theorem setVerdict_inputs (v : Verdict) (fc bc : Bool) (s : State) :
    (setVerdict v fc bc s).inputs = s.inputs := rfl

@[simp] theorem setVerdict_responses (v : Verdict) (fc bc : Bool) (s : State) :
    (setVerdict v fc bc s).responses = s.responses := rfl

/-! ## hardReset -/

@[simp] theorem hardReset_params (s : State) :
    (hardReset s).params = s.params := rfl

@[simp] theorem hardReset_crc (s : State) :
    (hardReset s).crc = 0xFFFF#16 := rfl

@[simp] theorem hardReset_reqId (s : State) :
    (hardReset s).reqId = 0#8 := rfl

@[simp] theorem hardReset_reqAddr (s : State) :
    (hardReset s).reqAddr = 0#16 := rfl

@[simp] theorem hardReset_reqCnt (s : State) :
    (hardReset s).reqCnt = 0#16 := rfl

@[simp] theorem hardReset_txBuf (s : State) :
    (hardReset s).txBuf = [] := rfl

@[simp] theorem hardReset_txValid (s : State) :
    (hardReset s).txValid = false := rfl

@[simp] theorem hardReset_txPtr (s : State) :
    (hardReset s).txPtr = 0#4 := rfl

@[simp] theorem hardReset_rxBuf (s : State) :
    (hardReset s).rxBuf = [] := rfl

@[simp] theorem hardReset_rxLen (s : State) :
    (hardReset s).rxLen = 0 := rfl

@[simp] theorem hardReset_rxOvf (s : State) :
    (hardReset s).rxOvf = false := rfl

@[simp] theorem hardReset_result (s : State) :
    (hardReset s).result = .none := rfl

@[simp] theorem hardReset_fcMatch (s : State) :
    (hardReset s).fcMatch = false := rfl

@[simp] theorem hardReset_bcMatch (s : State) :
    (hardReset s).bcMatch = false := rfl

@[simp] theorem hardReset_faults (s : State) :
    (hardReset s).faults = 0#6 := rfl

@[simp] theorem hardReset_inputs (s : State) :
    (hardReset s).inputs = s.inputs := rfl

@[simp] theorem hardReset_responses (s : State) :
    (hardReset s).responses = s.responses := rfl

/-! ## present -/

@[simp] theorem present_params (w : Word) (s : State) :
    (present w s).params = s.params := rfl

@[simp] theorem present_crc (w : Word) (s : State) :
    (present w s).crc = s.crc := rfl

@[simp] theorem present_reqId (w : Word) (s : State) :
    (present w s).reqId = s.reqId := rfl

@[simp] theorem present_reqAddr (w : Word) (s : State) :
    (present w s).reqAddr = s.reqAddr := rfl

@[simp] theorem present_reqCnt (w : Word) (s : State) :
    (present w s).reqCnt = s.reqCnt := rfl

@[simp] theorem present_txBuf (w : Word) (s : State) :
    (present w s).txBuf = s.txBuf := rfl

@[simp] theorem present_txValid (w : Word) (s : State) :
    (present w s).txValid = s.txValid := rfl

@[simp] theorem present_txPtr (w : Word) (s : State) :
    (present w s).txPtr = s.txPtr := rfl

@[simp] theorem present_rxBuf (w : Word) (s : State) :
    (present w s).rxBuf = s.rxBuf := rfl

@[simp] theorem present_rxLen (w : Word) (s : State) :
    (present w s).rxLen = s.rxLen := rfl

@[simp] theorem present_rxOvf (w : Word) (s : State) :
    (present w s).rxOvf = s.rxOvf := rfl

@[simp] theorem present_result (w : Word) (s : State) :
    (present w s).result = s.result := rfl

@[simp] theorem present_fcMatch (w : Word) (s : State) :
    (present w s).fcMatch = s.fcMatch := rfl

@[simp] theorem present_bcMatch (w : Word) (s : State) :
    (present w s).bcMatch = s.bcMatch := rfl

@[simp] theorem present_faults (w : Word) (s : State) :
    (present w s).faults = s.faults := rfl

@[simp] theorem present_inputs (w : Word) (s : State) :
    (present w s).inputs = .command w :: s.inputs := rfl

@[simp] theorem present_responses (w : Word) (s : State) :
    (present w s).responses = s.responses := rfl

end Sys2Proof.Machine
end

