-- ==== Sys2Proof/Laws/Ops.lean ====
section
/-! SUPPORT. What each shared operation can do, said once: buffer reads and writes, guarded reads,
taking a command fault. -/

namespace Sys2Proof.Machine

/-! ## Buffers -/

theorem Memory.read_write_same (m : Memory) (i : Nat) (b : Byte) :
    Memory.read (Memory.write m i b) i = some b := by
  induction m with
  | nil => simp [Memory.write, Memory.read]
  | cons kc rest ih =>
    obtain ⟨k, c⟩ := kc
    simp only [Memory.write]
    split
    · simp [Memory.read]
    · split
      · simp [Memory.read]
      · have hk : k ≠ i := by omega
        simpa [Memory.read, hk] using ih

theorem Memory.read_write_other (m : Memory) {i j : Nat} (b : Byte) (h : j ≠ i) :
    Memory.read (Memory.write m i b) j = Memory.read m j := by
  have hij : i ≠ j := Ne.symm h
  induction m with
  | nil => simp [Memory.write, Memory.read, hij]
  | cons kc rest ih =>
    obtain ⟨k, c⟩ := kc
    simp only [Memory.write]
    split
    · simp [Memory.read, hij]
    · split
      · rename_i hik
        subst hik
        simp [Memory.read, hij]
      · simp [Memory.read, ih]

theorem Memory.mem_write {m : Memory} {i : Nat} {b : Byte} {c : Host.Cell}
    (h : c ∈ Memory.write m i b) : c = (i, b) ∨ c ∈ m := by
  induction m with
  | nil => simpa [Memory.write] using h
  | cons kc rest ih =>
    obtain ⟨k, x⟩ := kc
    simp only [Memory.write] at h
    split at h
    · simpa using h
    · split at h
      · rcases List.mem_cons.mp h with h | h
        · exact .inl h
        · exact .inr (List.mem_cons_of_mem _ h)
      · rcases List.mem_cons.mp h with h | h
        · exact .inr (h ▸ List.mem_cons_self)
        · rcases ih h with h | h
          · exact .inl h
          · exact .inr (List.mem_cons_of_mem _ h)

/-- A write keeps the canonical form. -/
theorem Memory.write_wf {m : Memory} (i : Nat) (b : Byte) (h : Memory.wf m) :
    Memory.wf (Memory.write m i b) := by
  induction m with
  | nil => simp [Memory.write, Memory.wf]
  | cons kc rest ih =>
    obtain ⟨k, x⟩ := kc
    simp only [Memory.wf, List.map_cons, List.pairwise_cons] at h
    obtain ⟨hk, hrest⟩ := h
    simp only [Memory.write]
    split
    · rename_i hik
      simp only [Memory.wf, List.map_cons, List.pairwise_cons, List.mem_cons]
      refine ⟨?_, hk, hrest⟩
      rintro a (rfl | ha)
      · exact hik
      · exact lt_trans hik (hk a ha)
    · split
      · rename_i hik
        subst hik
        simpa only [Memory.wf, List.map_cons, List.pairwise_cons] using And.intro hk hrest
      · rename_i h1 h2
        have hw : Memory.wf (Memory.write rest i b) := ih hrest
        simp only [Memory.wf, List.map_cons, List.pairwise_cons]
        refine ⟨?_, hw⟩
        intro a ha
        obtain ⟨c, hc, rfl⟩ := List.mem_map.mp ha
        rcases Memory.mem_write hc with rfl | hc
        · show k < i
          omega
        · exact hk _ (List.mem_map_of_mem hc)

theorem Memory.writeFrom_wf {m : Memory} (i : Nat) (bs : List Byte) (h : Memory.wf m) :
    Memory.wf (Memory.writeFrom m i bs) := by
  induction bs generalizing m i with
  | nil => exact h
  | cons b bs ih => exact ih (i + 1) (Memory.write_wf i b h)

theorem Memory.mem_writeFrom {m : Memory} {i : Nat} {bs : List Byte} {c : Host.Cell}
    (h : c ∈ Memory.writeFrom m i bs) : (i ≤ c.1 ∧ c.1 < i + bs.length) ∨ c ∈ m := by
  induction bs generalizing m i with
  | nil => exact .inr h
  | cons b bs ih =>
    rcases ih h with h | h
    · left
      simp only [List.length_cons]
      omega
    · rcases Memory.mem_write h with rfl | h
      · left
        simp
      · exact .inr h

/-- Below the bytes written, a run of writes changes nothing. -/
theorem Memory.read_writeFrom_below (m : Memory) {i j : Nat} (bs : List Byte) (h : j < i) :
    Memory.read (Memory.writeFrom m i bs) j = Memory.read m j := by
  induction bs generalizing m i with
  | nil => rfl
  | cons b bs ih =>
    simp only [Memory.writeFrom]
    rw [ih (Memory.write m i b) (by omega), Memory.read_write_other _ _ (by omega)]

/-- A run of writes puts byte `k` of the run at index `i + k`. -/
theorem Memory.read_writeFrom (m : Memory) (i : Nat) (bs : List Byte) {k : Nat}
    (h : k < bs.length) : Memory.read (Memory.writeFrom m i bs) (i + k) = bs[k]? := by
  induction bs generalizing m i k with
  | nil => simp at h
  | cons b bs ih =>
    cases k with
    | zero =>
      simp only [Memory.writeFrom, Nat.add_zero, List.getElem?_cons_zero]
      rw [Memory.read_writeFrom_below _ _ (by omega), Memory.read_write_same]
    | succ k =>
      simp only [Memory.writeFrom, List.getElem?_cons_succ]
      have := ih (Memory.write m i b) (i + 1) (k := k) (by simpa using h)
      rwa [show i + 1 + k = i + (k + 1) by omega] at this

/-- A run of writes changes no cell outside it. -/
theorem Memory.read_writeFrom_other (m : Memory) (i : Nat) (bs : List Byte) {j : Nat}
    (h : j < i ∨ i + bs.length ≤ j) :
    Memory.read (Memory.writeFrom m i bs) j = Memory.read m j := by
  induction bs generalizing m i with
  | nil => rfl
  | cons b bs ih =>
    simp only [List.length_cons] at h
    simp only [Memory.writeFrom]
    rw [ih (Memory.write m i b) (i + 1) (by omega), Memory.read_write_other _ _ (by omega)]

/-! ## Guarded reads -/

/-- When a read of a buffer cell gives a byte. -/
theorem readCell_ok {space : Space} {cap : Nat} {m : Memory} {i : Nat} {b : Byte} :
    readCell space cap m i = .ok b ↔ i < cap ∧ Memory.read m i = some b := by
  unfold readCell
  split
  · cases h : Memory.read m i <;> simp_all
  · simp_all

theorem readTx_ok {s : State} {i : Nat} {b : Byte} :
    readTx s i = .ok b ↔ i < 8 ∧ Memory.read s.txBuf i = some b := readCell_ok

theorem readRx_ok {s : State} {i : Nat} {b : Byte} :
    readRx s i = .ok b ↔ i < s.params.rxcap ∧ Memory.read s.rxBuf i = some b := readCell_ok

/-- When a run of reads gives bytes: each read gives its byte. -/
theorem readSpan_ok {rd : Nat → Except Fault Byte} {i n : Nat} {bs : List Byte} :
    readSpan rd i n = .ok bs ↔ bs.length = n ∧ ∀ k, k < n → rd (i + k) = .ok (bs.getD k 0#8) := by
  induction n generalizing i bs with
  | zero => cases bs <;> simp [readSpan]
  | succ n ih =>
    simp only [readSpan]
    cases hb : rd i with
    | error f =>
      simp only [reduceCtorEq, false_iff, not_and, not_forall]
      exact fun _ => ⟨0, by omega, by simp [hb]⟩
    | ok b =>
      cases hr : readSpan rd (i + 1) n with
      | error f =>
        simp only [reduceCtorEq, false_iff, not_and]
        intro hl hk
        obtain ⟨c, cs, rfl⟩ := List.exists_cons_of_length_eq_add_one hl
        have : readSpan rd (i + 1) n = .ok cs := ih.mpr ⟨by simpa using hl, fun k hkn => by
          have := hk (k + 1) (by omega)
          rwa [show i + (k + 1) = i + 1 + k by omega] at this⟩
        rw [this] at hr
        cases hr
      | ok cs =>
        obtain ⟨hl, hk⟩ := ih.mp hr
        constructor
        · rintro h
          cases h
          refine ⟨by simp [hl], fun k hkn => ?_⟩
          cases k with
          | zero => simpa using hb
          | succ k =>
            rw [show i + (k + 1) = i + 1 + k by omega]
            simpa using hk k (by omega)
        · rintro ⟨hl', hk'⟩
          obtain ⟨d, ds, rfl⟩ := List.exists_cons_of_length_eq_add_one hl'
          have hd := hk' 0 (by omega)
          simp only [Nat.add_zero, hb, List.getD_cons_zero] at hd
          have hds : readSpan rd (i + 1) n = .ok ds := ih.mpr ⟨by simpa using hl', fun k hkn => by
            have := hk' (k + 1) (by omega)
            rwa [show i + (k + 1) = i + 1 + k by omega] at this⟩
          rw [hds] at hr
          cases hr
          cases hd
          rfl

/-- A run of reads gives bytes when every read of it does. -/
theorem readSpan_exists {rd : Nat → Except Fault Byte} {i n : Nat}
    (h : ∀ k, k < n → ∃ b, rd (i + k) = .ok b) : ∃ bs, readSpan rd i n = .ok bs := by
  induction n generalizing i with
  | zero => exact ⟨[], rfl⟩
  | succ n ih =>
    obtain ⟨b, hb⟩ := h 0 (by omega)
    obtain ⟨bs, hbs⟩ := ih (i := i + 1) fun k hk => by
      rw [show i + 1 + k = i + (k + 1) by omega]
      exact h (k + 1) (by omega)
    rw [Nat.add_zero] at hb
    exact ⟨b :: bs, by simp [readSpan, hb, hbs]⟩

/-- Two readers that agree on a run read the same there. -/
theorem readSpan_congr {rd rd' : Nat → Except Fault Byte} {i n : Nat}
    (h : ∀ k, k < n → rd (i + k) = rd' (i + k)) : readSpan rd i n = readSpan rd' i n := by
  induction n generalizing i with
  | zero => rfl
  | succ n ih =>
    have h0 := h 0 (by omega)
    rw [Nat.add_zero] at h0
    have hn := ih (i := i + 1) fun k hk => by
      rw [show i + 1 + k = i + (k + 1) by omega]
      exact h (k + 1) (by omega)
    simp only [readSpan, h0, hn]

/-- A guarded read goes on exactly when it gave something. -/
theorem orStop_next {α : Type} {r : Except Fault α} {k : α → StepOutcome} {t : State} :
    orStop r k = .next t ↔ ∃ a, r = .ok a ∧ k a = .next t := by
  cases r <;> simp [orStop]

/-! ## Taking a command fault -/

/-- Everything taking a command fault does (60_exceptions.md R146). -/
theorem raiseFault_eq (c : CmdFault) (s : State) :
    raiseFault c s =
      { s with
        faults := s.faults ||| faultBit c
        responses := s.responses ++ [⟨some c, 0#32⟩] } := rfl

/-- A command fault sets its own bit. -/
theorem faultBit_getLsbD (c : CmdFault) (n : Nat) (h : n < 6) :
    (faultBit c).getLsbD n = decide (n = CmdFault.code c) := by
  cases c <;> interval_cases n <;> decide

end Sys2Proof.Machine
end

