-- ==== Sys2Proof/Laws/Meanings.lean ====
section
/-! SUPPORT. One inversion lemma per command and one for `step`: if it answers a next state, that
state is one of these. -/

namespace Sys2Proof.Machine

theorem execNop_next {s t : State} : execNop s = .next t ↔ t = respond 0#32 s := by
  simp [execNop, eq_comm]

theorem execRd_next {sel : Byte} {s t : State} (h : execRd sel s = .next t) :
    (regOfSel sel = none ∧ t = raiseFault .badSel s)
      ∨ ∃ r v, regOfSel sel = some r ∧ readReg s r = .ok v ∧ t = respond v s := by
  unfold execRd at h
  split at h
  · rename_i hr
    cases h
    exact .inl ⟨hr, rfl⟩
  · rename_i r hr
    obtain ⟨v, hv, h⟩ := orStop_next.mp h
    cases h
    exact .inr ⟨r, v, hr, hv, rfl⟩

theorem execWr_next {sel : Byte} {data : Half} {s t : State} (h : execWr sel data s = .next t) :
    (regOfSel sel = some .reqId ∧ 0xFF < data.toNat ∧ t = raiseFault .badValue s)
      ∨ (regOfSel sel = some .reqId ∧ data.toNat ≤ 0xFF
          ∧ t = respond 0#32 { s with reqId := loByte data })
      ∨ (regOfSel sel = some .reqAddr ∧ t = respond 0#32 { s with reqAddr := data })
      ∨ (regOfSel sel = some .reqCnt ∧ t = respond 0#32 { s with reqCnt := data })
      ∨ (regOfSel sel ≠ some .reqId ∧ regOfSel sel ≠ some .reqAddr ∧ regOfSel sel ≠ some .reqCnt
          ∧ t = raiseFault .badSel s) := by
  unfold execWr at h
  split at h
  · rename_i hr
    split at h <;> rename_i hd <;> cases h
    · exact .inl ⟨hr, hd, rfl⟩
    · exact .inr (.inl ⟨hr, Nat.le_of_not_lt hd, rfl⟩)
  · rename_i hr
    cases h
    exact .inr (.inr (.inl ⟨hr, rfl⟩))
  · rename_i hr
    cases h
    exact .inr (.inr (.inr (.inl ⟨hr, rfl⟩)))
  · rename_i h1 h2 h3
    cases h
    exact .inr (.inr (.inr (.inr ⟨h1, h2, h3, rfl⟩)))

theorem execRst_next {s t : State} : execRst s = .next t ↔
    t = respond 0#32 (resetRegisters (clearReceive s)) := by
  simp [execRst, eq_comm]

theorem execCrcInit_next {s t : State} : execCrcInit s = .next t ↔
    t = respond 0#32 { s with crc := crcInitial } := by
  simp [execCrcInit, eq_comm]

theorem execCrcUpd_next {b : Byte} {s t : State} : execCrcUpd b s = .next t ↔
    t = respond 0#32 { s with crc := crcUnitStep s.params.crcImpl s.crc b } := by
  simp [execCrcUpd, eq_comm]

theorem execTxBuild_next {s t : State} (h : execTxBuild s = .next t) :
    ((s.reqId.toNat < 1 ∨ 247 < s.reqId.toNat) ∧ t = raiseFault .badValue s)
      ∨ (1 ≤ s.reqId.toNat ∧ s.reqId.toNat ≤ 247
          ∧ t = respond 0#32
              (loadRequest (buildRequest s.reqId s.reqAddr s.reqCnt) (clearReceive s))) := by
  by_cases hid : s.reqId.toNat < Config.idMin ∨ Config.idMax < s.reqId.toNat
  · rw [execTxBuild, if_pos hid] at h
    cases h
    exact .inl ⟨hid, rfl⟩
  · rw [execTxBuild, if_neg hid] at h
    cases h
    simp only [Config.idMin, Config.idMax] at hid
    exact .inr ⟨by omega, by omega, rfl⟩

theorem execTxRdb_next {idx : Half} {s t : State} (h : execTxRdb idx s = .next t) :
    (s.txValid = false ∧ t = raiseFault .badSeq s)
      ∨ (s.txValid = true ∧ 7 < indexOf idx ∧ t = raiseFault .badIndex s)
      ∨ (s.txValid = true ∧ indexOf idx ≤ 7
          ∧ ∃ b, readTx s (indexOf idx) = .ok b ∧ t = respond (byteWord b) s) := by
  unfold execTxRdb at h
  split at h
  · rename_i hv
    cases h
    exact .inl ⟨hv, rfl⟩
  · rename_i hv
    have hv : s.txValid = true := by simpa using hv
    split at h
    · rename_i hi
      cases h
      exact .inr (.inl ⟨hv, hi, rfl⟩)
    · rename_i hi
      obtain ⟨b, hb, h⟩ := orStop_next.mp h
      cases h
      exact .inr (.inr ⟨hv, Nat.le_of_not_lt hi, b, hb, rfl⟩)

theorem execTxNext_next {s t : State} (h : execTxNext s = .next t) :
    ((s.txValid = false ∨ s.txPtr = 8#4) ∧ t = raiseFault .badSeq s)
      ∨ (s.txValid = true ∧ s.txPtr ≠ 8#4
          ∧ ∃ b, readTx s s.txPtr.toNat = .ok b
            ∧ t = respond (byteWord b) { s with txPtr := s.txPtr + 1#4 }) := by
  unfold execTxNext at h
  split at h
  · rename_i hv
    cases h
    exact .inl ⟨.inl hv, rfl⟩
  · rename_i hv
    have hv : s.txValid = true := by simpa using hv
    split at h
    · rename_i hp
      cases h
      exact .inl ⟨.inr hp, rfl⟩
    · rename_i hp
      obtain ⟨b, hb, h⟩ := orStop_next.mp h
      cases h
      exact .inr ⟨hv, hp, b, hb, rfl⟩

theorem execRxClr_next {s t : State} : execRxClr s = .next t ↔
    t = respond 0#32 (clearReceive s) := by
  simp [execRxClr, eq_comm]

theorem execRxPush_next {b : Byte} {s t : State} (h : execRxPush b s = .next t) :
    (s.result ≠ .none ∧ t = raiseFault .badSeq s)
      ∨ (s.result = .none ∧ s.rxLen < s.params.rxcap
          ∧ t = respond 0#32 (appendByte b s))
      ∨ (s.result = .none ∧ s.params.rxcap ≤ s.rxLen
          ∧ t = respond 0#32 { s with rxOvf := true }) := by
  unfold execRxPush at h
  split at h
  · rename_i hr
    cases h
    exact .inl ⟨hr, rfl⟩
  · rename_i hr
    have hr : s.result = .none := by simpa using hr
    split at h <;> rename_i hl <;> cases h
    · exact .inr (.inl ⟨hr, hl, rfl⟩)
    · exact .inr (.inr ⟨hr, Nat.le_of_not_lt hl, rfl⟩)

theorem execRxCheck_next {s t : State} (h : execRxCheck s = .next t) :
    (s.txValid = false ∧ t = raiseFault .badSeq s)
      ∨ (s.txValid = true
          ∧ ∃ v fc bc, judgeReceived s = .ok v ∧ matchFlags s v = .ok (fc, bc)
            ∧ t = respond ((Verdict.code v).setWidth 32) (setVerdict v fc bc s)) := by
  unfold execRxCheck at h
  split at h
  · rename_i hv
    cases h
    exact .inl ⟨hv, rfl⟩
  · rename_i hv
    obtain ⟨v, hj, h⟩ := orStop_next.mp h
    obtain ⟨⟨fc, bc⟩, hm, h⟩ := orStop_next.mp h
    cases h
    exact .inr ⟨by simpa using hv, v, fc, bc, hj, hm, rfl⟩

theorem execRxRdb_next {idx : Half} {s t : State} (h : execRxRdb idx s = .next t) :
    (s.rxLen ≤ indexOf idx ∧ t = raiseFault .badIndex s)
      ∨ (indexOf idx < s.rxLen
          ∧ ∃ b, readRx s (indexOf idx) = .ok b ∧ t = respond (byteWord b) s) := by
  unfold execRxRdb at h
  split at h
  · rename_i hi
    cases h
    exact .inl ⟨hi, rfl⟩
  · rename_i hi
    obtain ⟨b, hb, h⟩ := orStop_next.mp h
    cases h
    exact .inr ⟨Nat.lt_of_not_le hi, b, hb, rfl⟩

theorem execRxReg_next {idx : Half} {s t : State} (h : execRxReg idx s = .next t) :
    (s.result ≠ .ok ∧ t = raiseFault .badSeq s)
      ∨ (s.result = .ok ∧ nregOf s.rxLen ≤ indexOf idx ∧ t = raiseFault .badIndex s)
      ∨ (s.result = .ok ∧ indexOf idx < nregOf s.rxLen
          ∧ ∃ hi lo, readRx s (3 + 2 * indexOf idx) = .ok hi
            ∧ readRx s (4 + 2 * indexOf idx) = .ok lo
            ∧ t = respond (halfWord (hi ++ lo)) s) := by
  unfold execRxReg at h
  split at h
  · rename_i hr
    cases h
    exact .inl ⟨hr, rfl⟩
  · rename_i hr
    have hr : s.result = .ok := by simpa using hr
    split at h
    · rename_i hi
      cases h
      exact .inr (.inl ⟨hr, hi, rfl⟩)
    · rename_i hi
      obtain ⟨hb, hhb, h⟩ := orStop_next.mp h
      obtain ⟨lb, hlb, h⟩ := orStop_next.mp h
      cases h
      exact .inr (.inr ⟨hr, Nat.lt_of_not_le hi, hb, lb, hhb, hlb, rfl⟩)

/-- Everything a step that answers a next state can have done. -/
theorem step_next {s t : State} (h : step s = .next t) :
    (s.inputs = [] ∧ t = s)
      ∨ (∃ rest, s.inputs = .resetPin :: rest ∧ t = hardReset { s with inputs := rest })
      ∨ (∃ w rest i, s.inputs = .command w :: rest ∧ decode w = .ok i
          ∧ exec i { s with inputs := rest } = .next t)
      ∨ (∃ w rest e, s.inputs = .command w :: rest ∧ decode w = .error e
          ∧ t = raiseFault .illegalOp { s with inputs := rest }) := by
  unfold step takeInput at h
  split at h
  · rename_i heq
    split at heq <;> cases heq
    rename_i hi
    cases h
    exact .inl ⟨hi, rfl⟩
  · rename_i heq
    split at heq <;> cases heq
    rename_i rest hi
    cases h
    exact .inr (.inl ⟨rest, hi, rfl⟩)
  · rename_i heq
    split at heq <;> cases heq
    rename_i hi
    split at h
    · rename_i i hd
      exact .inr (.inr (.inl ⟨_, _, i, hi, hd, h⟩))
    · rename_i e hd
      cases h
      exact .inr (.inr (.inr ⟨_, _, e, hi, hd, rfl⟩))

/-- A run of one step more, by its first step. -/
theorem core_run_next (n : Nat) {s t : State} (h : step s = .next t) :
    core.run (n + 1) s = core.run n t := by
  have e := Host.Core.run.eq_2 core s n
  have h' : core.step s = .next t := h
  exact e.trans (by rw [h'])

end Sys2Proof.Machine
end

