-- ==== Sys2Proof/Laws/PerInstr.lean ====
section
/-! SUPPORT. A statement made per instruction: which rows of the opcode map of 30_encoding.md R58 the
encoded word fits. -/

namespace Sys2Proof.Laws.EncodeFits

/-- The word `encode i` fits the row of the opcode map that names the command `i` is, and no other
row (30_encoding.md R58). -/
def Statement (i : Instr) : Prop :=
  ∀ r ∈ opcodeMap, r.fits (encode i) = decide (r.command = i.command)

/-- Whether a packed word fits a row, field by field. -/
theorem fits_packWord (r : OpcodeRow) (op sel : Byte) (data : Half) :
    r.fits (packWord op sel data) =
      ((op &&& opField r.mask) == opField r.matchBits
        && (sel &&& selField r.mask) == selField r.matchBits
        && (data &&& dataField r.mask) == dataField r.matchBits) := by
  have h : r.fits (packWord op sel data) =
      decide (packWord (op &&& opField r.mask) (sel &&& selField r.mask)
          (data &&& dataField r.mask)
        = packWord (opField r.matchBits) (selField r.matchBits) (dataField r.matchBits)) := by
    rw [← packWord_and, packWord_fields, packWord_fields]
    rfl
  rw [h, Bool.eq_iff_iff, decide_eq_true_iff, packWord_inj]
  simp [and_assoc]

/-- Every row of the opcode map compares all 8 bits of `op`. -/
theorem mask_op : ∀ r ∈ opcodeMap, opField r.mask = 0xFF#8 := by decide

/-- A packed word fits the rows of the map as `Statement` says when its opcode is that of its
command's row only, and its `sel` and `data` fit that row. -/
theorem statement_of_row {i : Instr} (c : Command) (m k : Word) {op sel : Byte} {data : Half}
    (hc : i.command = c) (he : encode i = packWord op sel data)
    (hop : ∀ r ∈ opcodeMap, (op == opField r.matchBits) = decide (r.command = c))
    (hrow : ∀ r ∈ opcodeMap, r.command = c → r = ⟨c, m, k⟩)
    (hsel : sel &&& selField k = selField m) (hdata : data &&& dataField k = dataField m) :
    Statement i := by
  intro r hr
  rw [he, fits_packWord, mask_op r hr, hc, show op &&& 0xFF#8 = op from BitVec.and_allOnes,
    hop r hr]
  by_cases h : r.command = c
  · rw [hrow r hr h]
    simp [hsel, hdata]
  · simp [h]

theorem nop : Statement .nop :=
  statement_of_row .nop 0x00000000#32 0xFFFFFFFF#32 rfl rfl (by decide) (by decide) rfl rfl

theorem rd (sel : Byte) : Statement (.rd sel) :=
  statement_of_row .rd 0x01000000#32 0xFF00FFFF#32 rfl rfl (by decide) (by decide)
    BitVec.and_zero rfl

theorem wr (sel : Byte) (data : Half) : Statement (.wr sel data) :=
  statement_of_row .wr 0x02000000#32 0xFF000000#32 rfl rfl (by decide) (by decide)
    BitVec.and_zero BitVec.and_zero

theorem rst : Statement .rst :=
  statement_of_row .rst 0x03000000#32 0xFFFFFFFF#32 rfl rfl (by decide) (by decide) rfl rfl

theorem crcInit : Statement .crcInit :=
  statement_of_row .crcInit 0x10000000#32 0xFFFFFFFF#32 rfl rfl (by decide) (by decide) rfl rfl

/-- A byte operand keeps `data[15:8]` zero (30_encoding.md R57, format B). -/
theorem byteData_and (b : Byte) : byteData b &&& 0xFF00#16 = 0#16 := by
  apply BitVec.eq_of_getLsbD_eq
  intro i hi
  rw [BitVec.getLsbD_and, byteData, getLsbD_bytes]
  by_cases h : i < 8
  · have : ∀ j, j < 8 → (0xFF00#16).getLsbD j = false := by decide
    simp [this i h]
  · simp [h]

theorem crcUpd (b : Byte) : Statement (.crcUpd b) :=
  statement_of_row .crcUpd 0x11000000#32 0xFFFFFF00#32 rfl rfl (by decide) (by decide) rfl
    (byteData_and b)

theorem txBuild : Statement .txBuild :=
  statement_of_row .txBuild 0x20000000#32 0xFFFFFFFF#32 rfl rfl (by decide) (by decide) rfl rfl

theorem txRdb (idx : Half) : Statement (.txRdb idx) :=
  statement_of_row .txRdb 0x21000000#32 0xFFFF0000#32 rfl rfl (by decide) (by decide) rfl
    BitVec.and_zero

theorem txNext : Statement .txNext :=
  statement_of_row .txNext 0x22000000#32 0xFFFFFFFF#32 rfl rfl (by decide) (by decide) rfl rfl

theorem rxClr : Statement .rxClr :=
  statement_of_row .rxClr 0x30000000#32 0xFFFFFFFF#32 rfl rfl (by decide) (by decide) rfl rfl

theorem rxPush (b : Byte) : Statement (.rxPush b) :=
  statement_of_row .rxPush 0x31000000#32 0xFFFFFF00#32 rfl rfl (by decide) (by decide) rfl
    (byteData_and b)

theorem rxCheck : Statement .rxCheck :=
  statement_of_row .rxCheck 0x32000000#32 0xFFFFFFFF#32 rfl rfl (by decide) (by decide) rfl rfl

theorem rxRdb (idx : Half) : Statement (.rxRdb idx) :=
  statement_of_row .rxRdb 0x33000000#32 0xFFFF0000#32 rfl rfl (by decide) (by decide) rfl
    BitVec.and_zero

theorem rxReg (idx : Half) : Statement (.rxReg idx) :=
  statement_of_row .rxReg 0x34000000#32 0xFFFF0000#32 rfl rfl (by decide) (by decide) rfl
    BitVec.and_zero

end Sys2Proof.Laws.EncodeFits
end

