-- ==== Sys2Proof/Tests/Slice0.lean ====
section
/-! SUPPORT. Tests on fixed values, taken from spec/95_test_vectors.md (V1 to V69) and the rules, and
for every statement of Certificates/Slice0/Obligations.lean with hypotheses a state and operands that
meet them. -/

namespace Sys2Proof.Tests

open Sys2Proof Sys2Proof.Machine Sys2Proof.Safety

/-! ## Helpers -/

/-- The bytes at indices 0, 1, … of a buffer. -/
def cells (bs : List Byte) : Memory := (List.range bs.length).zip bs

/-- The request of V30. -/
def frame30 : List Byte := [0x01#8, 0x03#8, 0x00#8, 0x00#8, 0x00#8, 0x02#8, 0xC4#8, 0x0B#8]

/-- The response of V40. -/
def frame40 : List Byte :=
  [0x01#8, 0x03#8, 0x04#8, 0x00#8, 0xEB#8, 0x01#8, 0xC4#8, 0x8A#8, 0x04#8]

/-- A block that has built the request `tx` and received the bytes `rx`, not yet judged. -/
def holding (tx rx : List Byte) : State :=
  { State.reset with txBuf := cells tx, txValid := true, rxBuf := cells rx, rxLen := rx.length }

/-- V40 after `RX.CHECK`. -/
def accepted : State :=
  { holding frame30 frame40 with result := .ok, fcMatch := true, bcMatch := true }

/-- The request registers of V30, nothing built. -/
def asking (id : Byte) : State := { State.reset with reqId := id, reqCnt := 2#16 }

/-- The last response of an outcome. -/
def answer : StepOutcome → Option Response
  | .next s => s.responses.getLast?
  | .fault _ => none
  | .refused _ => none

/-- Whether an outcome is a next state of which `p` holds. -/
def lands (p : State → Bool) : StepOutcome → Bool
  | .next s => p s
  | .fault _ => false
  | .refused _ => false

/-- What a word decodes to. -/
def decoded (w : Word) : Option Instr := decodeTableWord 32 w.toNat

/-- The outcome of the word `w` presented at the port. -/
def stepWord (w : Word) (s : State) : StepOutcome := step (present w s)

/-! ## Well-formed words: each check of 30_encoding.md R60 refuses an ill-formed word -/

theorem test_wf_listed_words :
    wellFormedWord 0x00000000#32 = true ∧ wellFormedWord 0x02FFFFFF#32 = true
      ∧ wellFormedWord 0x110000FF#32 = true ∧ wellFormedWord 0x3400FFFF#32 = true := by decide

theorem test_wf_unknown_op : wellFormedWord 0x04000000#32 = false := by decide

theorem test_wf_z_sel : wellFormedWord 0x00010000#32 = false := by decide

theorem test_wf_z_data : wellFormedWord 0x10000001#32 = false := by decide

theorem test_wf_s_data : wellFormedWord 0x01020001#32 = false := by decide

theorem test_wf_b_sel : wellFormedWord 0x31010000#32 = false := by decide

theorem test_wf_b_high_data : wellFormedWord 0x11000100#32 = false := by decide

theorem test_wf_i_sel : wellFormedWord 0x21010000#32 = false := by decide

theorem test_wf_all_ones : wellFormedWord 0xFFFFFFFF#32 = false := by decide

theorem test_wf_instr : Instr.wellFormed (.txRdb 0xFFFF#16) = true := by decide

/-! ## Decoding: words written out as `op_sel_data` from 30_encoding.md R56 to R59 -/

theorem test_decode_nop :
    decoded 0b00000000_00000000_0000000000000000#32 = some .nop := by decide

theorem test_decode_rd :
    decoded 0b00000001_00000010_0000000000000000#32 = some (.rd 2#8) := by decide

theorem test_decode_wr :
    decoded 0b00000010_00000101_0000000001101011#32 = some (.wr 5#8 0x006B#16) := by decide

theorem test_decode_rst :
    decoded 0b00000011_00000000_0000000000000000#32 = some .rst := by decide

theorem test_decode_crcInit :
    decoded 0b00010000_00000000_0000000000000000#32 = some .crcInit := by decide

theorem test_decode_crcUpd :
    decoded 0b00010001_00000000_0000000010000001#32 = some (.crcUpd 0x81#8) := by decide

theorem test_decode_txBuild :
    decoded 0b00100000_00000000_0000000000000000#32 = some .txBuild := by decide

theorem test_decode_txRdb :
    decoded 0b00100001_00000000_1000000000000110#32 = some (.txRdb 0x8006#16) := by decide

theorem test_decode_txNext :
    decoded 0b00100010_00000000_0000000000000000#32 = some .txNext := by decide

theorem test_decode_rxClr :
    decoded 0b00110000_00000000_0000000000000000#32 = some .rxClr := by decide

theorem test_decode_rxPush :
    decoded 0b00110001_00000000_0000000011101011#32 = some (.rxPush 0xEB#8) := by decide

theorem test_decode_rxCheck :
    decoded 0b00110010_00000000_0000000000000000#32 = some .rxCheck := by decide

theorem test_decode_rxRdb :
    decoded 0b00110011_00000000_0000000100000000#32 = some (.rxRdb 256#16) := by decide

theorem test_decode_rxReg :
    decoded 0b00110100_00000000_0000000000000001#32 = some (.rxReg 1#16) := by decide

/-- V9e and V69. -/
theorem test_decode_refuses :
    decoded 0x35000000#32 = none ∧ decoded 0xFFFFFFFF#32 = none ∧ decoded 0x21010000#32 = none := by
  decide

/-- The words of 30_encoding.md R62. -/
theorem test_encode :
    encode (.wr 3#8 0x0011#16) = 0x02030011#32 ∧ encode (.rxPush 0xEB#8) = 0x310000EB#32
      ∧ encode (.rxReg 1#16) = 0x34000001#32 := by decide

/-! ## The CRC (41_crc.md) -/

/-- V14, and V12, V13. -/
theorem test_crc_one_byte :
    crc16Modbus [0x01#8] = 0x807E#16 ∧ crc16Modbus [0x00#8] = 0x40BF#16
      ∧ crc16Modbus [0xFF#8] = 0x00FF#16 := by decide +kernel

/-- V10, the check value. -/
theorem test_crc_check_value :
    crc16Modbus [0x31#8, 0x32#8, 0x33#8, 0x34#8, 0x35#8, 0x36#8, 0x37#8, 0x38#8, 0x39#8]
      = 0x4B37#16 := by decide +kernel

/-- V17. -/
theorem test_crc_request :
    crc16Modbus [0x01#8, 0x03#8, 0x00#8, 0x00#8, 0x00#8, 0x02#8] = 0x0BC4#16 := by decide +kernel

/-- V23, V25, V27. -/
theorem test_crc_steps :
    crc16Step 0x0000#16 0x01#8 = 0xC0C1#16 ∧ crc16Step 0x8000#16 0x00#8 = 0x0080#16
      ∧ crc16Step 0xA001#16 0x01#8 = 0x00A0#16 := by decide +kernel

/-- 41_crc.md R95: the printed table has 256 entries, and each is the bitwise step of its index. -/
theorem test_crc_table :
    crcTable.length = 256
      ∧ ∀ i : Fin 256, crcTable.getD i.val 0#16 = crc16Step 0#16 (BitVec.ofNat 8 i.val) := by
  decide +kernel

/-- V28. -/
theorem test_crc_table_form : crc16StepTable 0xFFFF#16 0x01#8 = 0x807E#16 := by decide +kernel

/-! ## One step of each command -/

/-- V9c. -/
theorem test_nop_keeps_faults :
    lands (fun s => s.faults == 0x38#6) (stepWord 0x00000000#32 { State.reset with faults := 0x38#6 })
      = true := by decide

/-- V1. -/
theorem test_rd_crc : answer (stepWord 0x01020000#32 State.reset) = some ⟨none, 0x0000FFFF#32⟩ := by
  decide

/-- V40, `STATUS` after the check. -/
theorem test_rd_status : answer (exec (.rd 0#8) accepted) = some ⟨none, 0x00000315#32⟩ := by decide

/-- V5. -/
theorem test_wr_reqAddr :
    lands (fun s => s.reqAddr == 0x006B#16) (stepWord 0x0205006B#32 State.reset) = true := by decide

/-- V7: a wide value for `REQ_ID` is refused, not truncated. -/
theorem test_wr_reqId_wide :
    lands (fun s => s.faults == 0x08#6 && s.reqId == 0#8) (stepWord 0x02030100#32 State.reset)
      = true := by decide

/-- V9d. -/
theorem test_rst_clears :
    lands (fun s => s.result == .none && s.rxLen == 0 && s.txValid == false && s.crc == 0xFFFF#16)
      (exec .rst { accepted with crc := 0#16 }) = true := by decide

theorem test_crcInit :
    lands (fun s => s.crc == 0xFFFF#16) (exec .crcInit { State.reset with crc := 0x1234#16 })
      = true := by decide

/-- V14 at the port, in both forms of the CRC unit. -/
theorem test_crcUpd :
    lands (fun s => s.crc == 0x807E#16) (exec (.crcUpd 0x01#8) State.reset) = true
      ∧ lands (fun s => s.crc == 0x807E#16)
          (exec (.crcUpd 0x01#8) (withCrcImpl .table State.reset)) = true := by decide +kernel

/-- V30. -/
theorem test_txBuild_frame :
    lands (fun s => s.txBuf == cells frame30 && s.txValid) (exec .txBuild (asking 1#8)) = true := by
  decide +kernel

/-- V60. -/
theorem test_txBuild_no_id :
    lands (fun s => s.faults == 0x08#6 && s.txValid == false) (stepWord 0x20000000#32 State.reset)
      = true := by decide

/-- V30, its CRC low byte first. -/
theorem test_txRdb : answer (exec (.txRdb 6#16) (holding frame30 [])) = some ⟨none, 0xC4#32⟩ := by
  decide

/-- V62. -/
theorem test_txRdb_phase_first :
    answer (exec (.txRdb 9#16) State.reset) = some ⟨some .badSeq, 0#32⟩ := by decide

theorem test_txNext :
    lands (fun s => s.txPtr == 8#4 && s.responses == [⟨none, 0x0B#32⟩])
      (exec .txNext { holding frame30 [] with txPtr := 7#4 }) = true := by decide

/-- V66. -/
theorem test_txNext_past_end :
    lands (fun s => s.txPtr == 8#4 && s.responses == [⟨some .badSeq, 0#32⟩])
      (exec .txNext { holding frame30 [] with txPtr := 8#4 }) = true := by decide

/-- V55. -/
theorem test_rxClr :
    lands (fun s => s.rxLen == 0 && s.result == .none && s.txValid) (exec .rxClr accepted)
      = true := by decide

theorem test_rxPush :
    lands (fun s => s.rxLen == 10 && Memory.read s.rxBuf 9 == some 0x7F#8)
      (exec (.rxPush 0x7F#8) (holding frame30 frame40)) = true := by decide

/-- V50: the ninth byte of a buffer of eight. -/
theorem test_rxPush_overflow :
    lands (fun s => s.rxLen == 8 && s.rxOvf && s.responses == [⟨none, 0#32⟩])
      (exec (.rxPush 0x04#8)
        { holding frame30 (frame40.take 8) with params := ⟨8, .bitwise⟩ }) = true := by decide

/-- V40. -/
theorem test_rxCheck_ok :
    lands (fun s => s == { accepted with responses := [⟨none, 1#32⟩] })
      (exec .rxCheck (holding frame30 frame40)) = true := by decide +kernel

/-- V44: a good CRC from slave 2. -/
theorem test_rxCheck_addr :
    answer (exec .rxCheck (holding frame30
      [0x02#8, 0x03#8, 0x04#8, 0x00#8, 0xEB#8, 0x01#8, 0xC4#8, 0xB9#8, 0x04#8]))
      = some ⟨none, 4#32⟩ := by decide +kernel

/-- V41. -/
theorem test_rxRdb :
    answer (exec (.rxRdb 6#16) (holding frame30 (frame40.set 6 0xC5#8))) = some ⟨none, 0xC5#32⟩ := by
  decide

/-- V59. -/
theorem test_rxRdb_past_end :
    answer (exec (.rxRdb 9#16) accepted) = some ⟨some .badIndex, 0#32⟩ := by decide

/-- V40: register 1 is 452, big-endian. -/
theorem test_rxReg : answer (exec (.rxReg 1#16) accepted) = some ⟨none, 452#32⟩ := by decide

/-- V58. -/
theorem test_rxReg_no_verdict :
    answer (exec (.rxReg 0#16) State.reset) = some ⟨some .badSeq, 0#32⟩ := by decide

/-- V9b. -/
theorem test_illegal_word :
    lands (fun s => s.faults == 0x02#6 && s.responses == [⟨some .illegalOp, 0#32⟩])
      (stepWord 0x00010000#32 State.reset) = true := by decide

/-- 60_exceptions.md R152. -/
theorem test_error_kind :
    errorKind .ok = .success ∧ errorKind .short = .shortFrameError ∧ errorKind .crc = .crcError
      ∧ errorKind .addr = .crcError ∧ errorKind .overrun = .ioError
      ∧ errorKind .none = .noResult := by decide

/-- The words of the pseudo-command `REQ 1, 0x0000, 2` as program P2 of 95_test_vectors.md lists
them. -/
theorem test_req_words :
    (req 1#16 0#16 2#16).map encode
      = [0x02030001#32, 0x02050000#32, 0x02060002#32, 0x20000000#32] := by decide

/-- A word placed for the host's question is the one the next step runs. -/
theorem test_withFetchWord :
    step (State.reset.withFetchWord 32 0x11000001) = exec (.crcUpd 0x01#8) State.reset := rfl

/-! ## Witnesses: encoding -/

theorem test_witness_EncodeDecodeRoundTrip : decode 0x3400FFFF#32 = .ok (.rxReg 0xFFFF#16) := rfl

theorem test_witness_DecodeFollowsOpcodeMap :
    ∀ r ∈ opcodeMap, 0x04000000#32 &&& r.mask ≠ r.matchBits := by decide

/-- The first clause: a state with an illegal word at the port. -/
theorem test_witness_UnlistedWord :
    (present 0x04000000#32 State.reset).inputs = .command 0x04000000#32 :: []
      ∧ ∀ r ∈ opcodeMap, 0x04000000#32 &&& r.mask ≠ r.matchBits := by decide

/-- The second clause, at both ends of each range of 30_encoding.md R58. -/
theorem test_witness_UnlistedWord_ops :
    (opField 0x04FFFFFF#32).toNat = 0x04 ∧ (opField 0x0F000000#32).toNat = 0x0F
      ∧ (opField 0x12000000#32).toNat = 0x12 ∧ (opField 0x1F000000#32).toNat = 0x1F
      ∧ (opField 0x23000000#32).toNat = 0x23 ∧ (opField 0x2F000000#32).toNat = 0x2F
      ∧ (opField 0x35000000#32).toNat = 0x35 ∧ (opField 0xFF000000#32).toNat = 0xFF := by decide

/-- The third clause: `NOP` with `sel` = 1, against the row of `NOP`. -/
theorem test_witness_UnlistedWord_zero_fields :
    (⟨.nop, 0x00000000#32, 0xFFFFFFFF#32⟩ : OpcodeRow) ∈ opcodeMap
      ∧ opField 0x00010000#32 = opField 0x00000000#32
      ∧ 0x00010000#32 &&& 0xFFFFFFFF#32 ≠ 0x00000000#32 := by decide

/-- The `Format…` clauses: for each format a word in it and a word with its opcode but outside it,
one for each field that must be 0. -/
theorem test_witness_formats :
    (opField 0x10000000#32 = 0x10#8 ∧ selField 0x10000000#32 = 0#8 ∧ dataField 0x10000000#32 = 0#16)
      ∧ (opField 0x10000001#32 = 0x10#8 ∧ dataField 0x10000001#32 ≠ 0#16)
      ∧ (opField 0x10010000#32 = 0x10#8 ∧ selField 0x10010000#32 ≠ 0#8)
      ∧ (opField 0x01FF0000#32 = 0x01#8 ∧ dataField 0x01FF0000#32 = 0#16)
      ∧ (opField 0x01020001#32 = 0x01#8 ∧ dataField 0x01020001#32 ≠ 0#16)
      ∧ opField 0x02FFFFFF#32 = 0x02#8
      ∧ (opField 0x110000FF#32 = 0x11#8 ∧ selField 0x110000FF#32 = 0#8
          ∧ hiByte (dataField 0x110000FF#32) = 0#8)
      ∧ (opField 0x11000100#32 = 0x11#8 ∧ hiByte (dataField 0x11000100#32) ≠ 0#8)
      ∧ (opField 0x11010000#32 = 0x11#8 ∧ selField 0x11010000#32 ≠ 0#8)
      ∧ (opField 0x2100FFFF#32 = 0x21#8 ∧ selField 0x2100FFFF#32 = 0#8)
      ∧ (opField 0x21010000#32 = 0x21#8 ∧ selField 0x21010000#32 ≠ 0#8) := by decide

/-! ## Witnesses: the step, the port and reset -/

theorem test_witness_StepRunsDecodedCommand :
    (present 0x34000001#32 accepted).inputs = .command 0x34000001#32 :: []
      ∧ decode 0x34000001#32 = .ok (.rxReg 1#16) := ⟨rfl, rfl⟩

theorem test_witness_IdleStepChangesNothing : accepted.inputs = [] := rfl

/-- The accepted response of V40 with `rst` presented. -/
def resetting : State := { accepted with inputs := [.resetPin, .command 0#32] }

theorem test_witness_ResetPin : resetting.inputs = .resetPin :: [.command 0#32] := rfl

/-- A state at the reset values whose buffers still hold a frame (10_state.md R36). -/
def staleReset : State :=
  { State.reset with txBuf := cells frame30, rxBuf := cells frame40 }

theorem test_witness_ReadsAfterReset : AtResetValues staleReset :=
  ⟨rfl, rfl, rfl, rfl, rfl, rfl, rfl, rfl, rfl, rfl, rfl, rfl⟩

/-! ## Witnesses: host access -/

/-- The four clauses: no request; V33's count at its largest; the verdict `OK`; no verdict. -/
theorem test_witness_RdReturnsDerivedValue :
    State.reset.txValid = false
      ∧ (holding [0xF7#8, 0x03#8, 0xFF#8, 0xFF#8, 0xFF#8, 0xFF#8, 0x50#8, 0xC8#8] []).txValid = true
      ∧ answer (exec (.rd 9#8)
          (holding [0xF7#8, 0x03#8, 0xFF#8, 0xFF#8, 0xFF#8, 0xFF#8, 0x50#8, 0xC8#8] []))
          = some ⟨none, 0x00020003#32⟩
      ∧ accepted.result = .ok ∧ State.reset.result ≠ .ok := by decide

theorem test_witness_RdReturnsDerivedValue_bytes :
    readTx (holding frame30 []) 4 = .ok 0x00#8 ∧ readTx (holding frame30 []) 5 = .ok 0x02#8 :=
  ⟨rfl, rfl⟩

/-- Both cases of `RX_COMPLETE`: no request, and V40 at exactly `EXP_LEN` and one byte short. -/
theorem test_witness_StatusLayout :
    State.reset.txValid = false ∧ accepted.txValid = true
      ∧ readTx accepted 4 = .ok 0x00#8 ∧ readTx accepted 5 = .ok 0x02#8
      ∧ true = decide (5 + 2 * ((0x00#8).toNat * 256 + (0x02#8).toNat) ≤ accepted.rxLen)
      ∧ false = decide (5 + 2 * ((0x00#8).toNat * 256 + (0x02#8).toNat)
          ≤ (holding frame30 (frame40.take 8)).rxLen) :=
  ⟨rfl, rfl, rfl, rfl, by decide, by decide⟩

theorem test_witness_RdUndefinedSelector :
    0x0B < (0x0C#8).toNat ∧ 0x0B < (0xFF#8).toNat := by decide

/-- 40_host_access.md R82, one selector and value for each outcome, at the edges. -/
theorem test_witness_WrWritesRequestRegister :
    answer (exec (.wr 4#8 3#16) State.reset) = some ⟨some .badSel, 0#32⟩
      ∧ answer (exec (.wr 3#8 0x0100#16) State.reset) = some ⟨some .badValue, 0#32⟩
      ∧ answer (exec (.wr 3#8 0x00FF#16) State.reset) = some ⟨none, 0#32⟩
      ∧ answer (exec (.wr 5#8 0xFFFF#16) State.reset) = some ⟨none, 0#32⟩
      ∧ answer (exec (.wr 6#8 0xFFFF#16) State.reset) = some ⟨none, 0#32⟩
      ∧ opField 0x02FFFFFF#32 = 0x02#8 := by decide

/-- The second clause of the statement on `RST`: a fault bit that `CRC.INIT` leaves set. -/
theorem test_witness_RstRestoresResetState :
    Instr.crcInit ≠ .rst
      ∧ (∃ t, exec .crcInit { State.reset with faults := 0x02#6 } = .next t)
      ∧ ({ State.reset with faults := 0x02#6 } : State).faults.getLsbD 1 = true :=
  ⟨by decide, ⟨_, rfl⟩, by decide⟩

theorem test_witness_WrLeavesBuiltRequest :
    ∃ t, exec (.wr 6#8 7#16) accepted = .next t ∧ t.reqCnt = 7#16 := ⟨_, rfl, rfl⟩

/-! ## Witnesses: CRC generator -/

theorem test_witness_CrcHoldsChecksum :
    (∀ i ∈ [Instr.crcUpd 0x01#8, .nop, .txBuild], i ≠ .crcInit ∧ i ≠ .rst)
      ∧ lands (fun t => t.crc == 0x807E#16)
          (execAll [.crcInit, .crcUpd 0x01#8, .nop, .txBuild] (asking 1#8)) = true := by
  decide +kernel

/-- The frame of V46 (the shortest response), its first bit and its last. -/
theorem test_witness_SingleBitErrorDetected :
    CarriesCrc [0x01#8, 0x03#8, 0x00#8, 0x20#8, 0xF0#8] := by
  show _ = _
  decide +kernel

theorem test_witness_TrailingZerosKeepCrc : CarriesCrc frame40 := by
  show _ = _
  decide +kernel

/-! ## Witnesses: request serializer -/

/-- The two ends of each clause: `REQ_ID` 0 and 248 refused, 1 and 247 built. -/
theorem test_witness_TxBuildLoadsRequest :
    ((asking 0#8).reqId.toNat < 1 ∧ 247 < (asking 248#8).reqId.toNat)
      ∧ (1 ≤ (asking 1#8).reqId.toNat ∧ (asking 1#8).reqId.toNat ≤ 247)
      ∧ (1 ≤ (asking 247#8).reqId.toNat ∧ (asking 247#8).reqId.toNat ≤ 247) := by decide

/-- No request; past the end at 8; the last byte at 7. -/
theorem test_witness_TxRdbReadsRequestByte :
    State.reset.txValid = false ∧ (holding frame30 []).txValid = true ∧ 7 < (8#16).toNat
      ∧ (7#16).toNat ≤ 7 ∧ readTx (holding frame30 []) 7 = .ok 0x0B#8 :=
  ⟨rfl, rfl, by decide, by decide, rfl⟩

/-- No request; the pointer at 8; at 7; at 0 with the whole frame readable. -/
theorem test_witness_TxNextHandsOutRequest :
    State.reset.txValid = false ∧ (holding frame30 []).txValid = true
      ∧ ({ holding frame30 [] with txPtr := 8#4 } : State).txPtr = 8#4
      ∧ (7#4 ≠ 8#4 ∧ readTx { holding frame30 [] with txPtr := 7#4 } (7#4).toNat = .ok 0x0B#8)
      ∧ (holding frame30 []).txPtr = 0#4 ∧ txFrame (holding frame30 []) = .ok frame30 :=
  ⟨rfl, rfl, rfl, ⟨by decide, rfl⟩, rfl, rfl⟩

/-- The clause on the pointer: `TX.NEXT` at 7 moves it, `RX.CLR` does not. -/
theorem test_witness_TxNextHandsOutRequest_pointer :
    lands (fun t => t.txPtr == 8#4) (exec .txNext { holding frame30 [] with txPtr := 7#4 }) = true
      ∧ lands (fun t => t.txPtr == 8#4) (exec .rxClr { accepted with txPtr := 8#4 }) = true
      ∧ Instr.txNext ≠ .txBuild ∧ Instr.txNext ≠ .rst := by decide

/-! ## Witnesses: response parser -/

theorem test_witness_RxClrEmptiesReceiveSide :
    ∃ t, exec .rxClr accepted = .next t ∧ expLen t = .ok 9 := ⟨_, rfl, rfl⟩

/-- A verdict stands; room for the last byte of a buffer of ten; a buffer of nine is full. -/
theorem test_witness_RxPushAppendsByte :
    accepted.result ≠ .none ∧ (holding frame30 frame40).result = .none
      ∧ (holding frame30 frame40).rxLen
          < ({ holding frame30 frame40 with params := ⟨10, .bitwise⟩ } : State).params.rxcap
      ∧ ({ holding frame30 frame40 with params := ⟨9, .bitwise⟩ } : State).params.rxcap
          ≤ (holding frame30 frame40).rxLen := by decide

/-- No request; four bytes; five bytes with an overflow. -/
theorem test_witness_RxCheckJudgesResponse_early :
    State.reset.txValid = false
      ∧ (holding frame30 (frame40.take 4)).rxLen < 5
      ∧ 5 ≤ ({ holding frame30 (frame40.take 5) with params := ⟨5, .table⟩, rxOvf := true } : State).rxLen
      := by decide

/-- V46: a frame of five bytes that is judged by its bytes. -/
theorem test_witness_RxCheckJudgesResponse_frame :
    (holding frame30 [0x01#8, 0x03#8, 0x00#8, 0x20#8, 0xF0#8]).rxLen = 5
      ∧ rxFrame (holding frame30 [0x01#8, 0x03#8, 0x00#8, 0x20#8, 0xF0#8])
          = .ok [0x01#8, 0x03#8, 0x00#8, 0x20#8, 0xF0#8]
      ∧ readTx (holding frame30 [0x01#8, 0x03#8, 0x00#8, 0x20#8, 0xF0#8]) 0 = .ok 0x01#8
      ∧ readTx (holding frame30 [0x01#8, 0x03#8, 0x00#8, 0x20#8, 0xF0#8]) 1 = .ok 0x03#8 :=
  ⟨rfl, rfl, rfl, rfl⟩

theorem accepted_judged : judgeReceived accepted = .ok .ok := by decide +kernel

/-- The verdict `OK` of V40 describes its bytes. -/
theorem test_witness_RxCheckRepeatable :
    VerdictCurrent accepted ∧ accepted.txValid = true ∧ accepted.result ≠ .none :=
  ⟨fun _ => ⟨accepted_judged, rfl⟩, rfl, by decide⟩

/-- V42: the first bit of V40 and its last. -/
theorem test_witness_FlippedBitRejectedByCrc :
    ((holding frame30 frame40).txValid = true
        ∧ lands (fun t => t.result == .ok) (exec .rxCheck (holding frame30 frame40)) = true)
      ∧ (0 < (holding frame30 frame40).rxLen ∧ readRx (holding frame30 frame40) 0 = .ok 0x01#8)
      ∧ (8 < (holding frame30 frame40).rxLen ∧ readRx (holding frame30 frame40) 8 = .ok 0x04#8) :=
  ⟨⟨rfl, by decide +kernel⟩, ⟨by decide, rfl⟩, ⟨by decide, rfl⟩⟩

/-- Index 9 is `RX_LEN` of V40, index 8 the last byte. -/
theorem test_witness_RxRdbReadsReceivedByte :
    accepted.rxLen ≤ (9#16).toNat ∧ (8#16).toNat < accepted.rxLen
      ∧ readRx accepted 8 = .ok 0x04#8 := ⟨by decide, by decide, rfl⟩

/-- No verdict; the last register of V40 is 1, the first missing one 2. -/
theorem test_witness_RxRegDeliversRegister :
    State.reset.result ≠ .ok ∧ accepted.result = .ok
      ∧ (accepted.rxLen - 5) / 2 ≤ (2#16).toNat ∧ (1#16).toNat < (accepted.rxLen - 5) / 2
      ∧ readRx accepted (3 + 2 * (1#16).toNat) = .ok 0x01#8
      ∧ readRx accepted (4 + 2 * (1#16).toNat) = .ok 0xC4#8 :=
  ⟨by decide, rfl, by decide, by decide, rfl, rfl⟩

theorem test_witness_AcceptedResponseDeliversRegisters : StateInv accepted where
  txPtr_le := by decide
  rxLen_le := by decide
  ovf_full := by decide
  verdict_has_request := fun _ => rfl
  request_frame := fun _ => ⟨frame30, rfl, rfl, by decide, by decide, rfl, by
    show _ = _
    decide +kernel⟩
  ok_frame := fun _ => ⟨by decide, rfl, ⟨0x01#8, rfl, rfl⟩, frame40, rfl,
    test_witness_TrailingZerosKeepCrc⟩
  flags_clear := fun h => absurd rfl h
  short_len := fun h => by cases h
  overrun_ovf := fun h => by cases h
  faults_bit0 := rfl
  rx_written := fun i h => by
    have h : i < 9 := h
    interval_cases i <;> exact ⟨_, rfl⟩

/-- The request of V49: 126 registers, more than the default `RXCAP` can take. -/
def asking126 : State :=
  holding [0x01#8, 0x03#8, 0x00#8, 0x00#8, 0x00#8, 0x7E#8, 0xC5#8, 0xEA#8] []

theorem test_witness_NeverComplete_inv : StateInv asking126 where
  txPtr_le := by decide
  rxLen_le := by decide
  ovf_full := by decide
  verdict_has_request := fun _ => rfl
  request_frame := fun _ => ⟨_, rfl, rfl, by decide, by decide, rfl, by
    show _ = _
    decide +kernel⟩
  ok_frame := fun h => by cases h
  flags_clear := fun _ => ⟨rfl, rfl⟩
  short_len := fun h => by cases h
  overrun_ovf := fun h => by cases h
  faults_bit0 := rfl
  rx_written := fun i h => absurd h (Nat.not_lt_zero i)

theorem test_witness_NeverComplete :
    asking126.txValid = true ∧ expLen asking126 = .ok 257 ∧ asking126.params.rxcap < 257 :=
  ⟨rfl, rfl, by decide⟩

/-! ## Witnesses: command faults and responses -/

theorem test_witness_CommandFaultIsPrecise :
    ∃ t, exec (.rd 0x0C#8) accepted = .next t
      ∧ t.responses = accepted.responses ++ [⟨some .badSel, 0#32⟩] := ⟨_, rfl, rfl⟩

theorem test_witness_OneResponsePerCommand :
    ∃ t, exec (.rxReg 1#16) accepted = .next t ∧ t.responses = [⟨none, 452#32⟩] := ⟨_, rfl, rfl⟩

/-- V9c: `NOP` at the port while three faults stand. -/
theorem test_witness_FaultsStickyUntilReset :
    (∃ t, step (present 0#32 { State.reset with faults := 0x38#6 }) = .next t)
      ∧ (present 0#32 { State.reset with faults := 0x38#6 }).inputs.head? ≠ some .resetPin
      ∧ (present 0#32 { State.reset with faults := 0x38#6 }).inputs.head?
          ≠ some (.command 0x03000000#32)
      ∧ (present 0#32 { State.reset with faults := 0x38#6 }).faults.getLsbD 3 = true :=
  ⟨⟨_, rfl⟩, by decide, by decide, by decide⟩

/-- `NOP` has an empty row in the table of 10_state.md R31, so it meets the premise of every
column. -/
theorem test_witness_WriteTable :
    (∃ t, exec .nop accepted = .next t) ∧ Instr.command .nop = Command.nop
      ∧ mayRaise .nop = [] := ⟨⟨_, rfl⟩, rfl, rfl⟩

theorem test_witness_ReadsAreIdempotent :
    Instr.command (.rd 2#8) ∈ [Command.rd, .txRdb, .rxRdb, .rxReg]
      ∧ ∃ t, exec (.rd 2#8) accepted = .next t
          ∧ t.responses = accepted.responses ++ [⟨none, 0x0000FFFF#32⟩] :=
  ⟨by decide, _, rfl, rfl⟩

/-! ## Witnesses: invariants -/

/-- A state with the invariants, `RX.CLR` at its port. -/
theorem test_witness_StepKeepsInvariants :
    StateInv (present 0x30000000#32 accepted)
      ∧ ∃ t, step (present 0x30000000#32 accepted) = .next t ∧ t.rxLen = 0 :=
  have h := test_witness_AcceptedResponseDeliversRegisters
  ⟨⟨h.1, h.2, h.3, h.4, h.5, h.6, h.7, h.8, h.9, h.10, h.11⟩, _, rfl, rfl⟩

theorem test_witness_StepKeepsVerdictCurrent :
    VerdictCurrent (present 0x31000000#32 accepted)
      ∧ ∃ t, step (present 0x31000000#32 accepted) = .next t ∧ t.faults = 0x20#6 :=
  ⟨fun _ => ⟨accepted_judged, rfl⟩, _, rfl, rfl⟩

theorem test_witness_StepKeepsCanonicalBuffers :
    Canonical (present 0x31000000#32 (holding frame30 frame40))
      ∧ ∃ t, step (present 0x31000000#32 (holding frame30 frame40)) = .next t ∧ t.rxLen = 10 :=
  ⟨⟨by decide, by decide, by decide, by decide, by decide⟩, _, rfl, rfl⟩

theorem test_witness_UnreadableCells : SameVisible State.reset staleReset where
  rest := rfl
  tx := fun h => by cases h
  rx := fun i h => absurd h (Nat.not_lt_zero i)

end Sys2Proof.Tests
end

/-! ## What a step does with each thing the host can present

One equation per case of `step`, for whatever stands at the port (00_scope.md R5, 10_state.md R11). -/

namespace Sys2Proof.Machine

theorem step_idle {s : State} (hin : s.inputs = []) : step s = .next s := by
  simp [step, takeInput, hin]

theorem step_resetPin {s : State} {rest : List HostInput} (hin : s.inputs = .resetPin :: rest) :
    step s = .next (hardReset { s with inputs := rest }) := by
  simp [step, takeInput, hin]

theorem step_command {s : State} {w : Word} {rest : List HostInput} {i : Instr}
    (hin : s.inputs = .command w :: rest) (hdec : decode w = .ok i) :
    step s = exec i { s with inputs := rest } := by
  simp [step, takeInput, hin, hdec]

theorem step_illegal {s : State} {w : Word} {rest : List HostInput} {e : Reject}
    (hin : s.inputs = .command w :: rest) (hdec : decode w = .error e) :
    step s = .next (raiseFault .illegalOp { s with inputs := rest }) := by
  simp [step, takeInput, hin, hdec, execIllegal]

/-! ## What a command does with the buffers -/

/-- What a command can do to the parameters and the two buffers: nothing, load a request into
`TXBUF`, or append one byte to an `RXBUF` that has room. -/
inductive BufferEffect (s t : State) : Prop
  | kept (params : t.params = s.params) (tx : t.txBuf = s.txBuf) (rx : t.rxBuf = s.rxBuf)
  | built (id : Byte) (addr cnt : Half) (params : t.params = s.params)
      (tx : t.txBuf = Memory.writeFrom s.txBuf 0 (buildRequest id addr cnt))
      (rx : t.rxBuf = s.rxBuf)
  | pushed (b : Byte) (room : s.rxLen < s.params.rxcap) (params : t.params = s.params)
      (tx : t.txBuf = s.txBuf) (rx : t.rxBuf = Memory.write s.rxBuf s.rxLen b)

/-- Only `TX.BUILD` and `RX.PUSH` write a buffer cell (10_state.md R31). -/
theorem exec_bufferEffect {i : Instr} {s t : State} (h : exec i s = .next t) :
    BufferEffect s t := by
  cases i with
  | nop =>
    obtain rfl := execNop_next.mp h
    exact .kept rfl rfl rfl
  | rd sel =>
    obtain ⟨-, rfl⟩ | ⟨_, _, -, -, rfl⟩ := execRd_next h
    · exact .kept rfl rfl rfl
    · exact .kept rfl rfl rfl
  | wr sel data =>
    obtain ⟨-, -, rfl⟩ | ⟨-, -, rfl⟩ | ⟨-, rfl⟩ | ⟨-, rfl⟩ | ⟨-, -, -, rfl⟩ := execWr_next h
      <;> exact .kept rfl rfl rfl
  | rst =>
    obtain rfl := execRst_next.mp h
    exact .kept rfl rfl rfl
  | crcInit =>
    obtain rfl := execCrcInit_next.mp h
    exact .kept rfl rfl rfl
  | crcUpd b =>
    obtain rfl := execCrcUpd_next.mp h
    exact .kept rfl rfl rfl
  | txBuild =>
    obtain ⟨-, rfl⟩ | ⟨-, -, rfl⟩ := execTxBuild_next h
    · exact .kept rfl rfl rfl
    · exact .built s.reqId s.reqAddr s.reqCnt rfl rfl rfl
  | txRdb idx =>
    obtain ⟨-, rfl⟩ | ⟨-, -, rfl⟩ | ⟨-, -, _, -, rfl⟩ := execTxRdb_next h
      <;> exact .kept rfl rfl rfl
  | txNext =>
    obtain ⟨-, rfl⟩ | ⟨-, -, _, -, rfl⟩ := execTxNext_next h
    · exact .kept rfl rfl rfl
    · exact .kept rfl rfl rfl
  | rxClr =>
    obtain rfl := execRxClr_next.mp h
    exact .kept rfl rfl rfl
  | rxPush b =>
    obtain ⟨-, rfl⟩ | ⟨-, room, rfl⟩ | ⟨-, -, rfl⟩ := execRxPush_next h
    · exact .kept rfl rfl rfl
    · exact .pushed b room rfl rfl rfl
    · exact .kept rfl rfl rfl
  | rxCheck =>
    obtain ⟨-, rfl⟩ | ⟨-, _, _, _, -, -, rfl⟩ := execRxCheck_next h
    · exact .kept rfl rfl rfl
    · exact .kept rfl rfl rfl
  | rxRdb idx =>
    obtain ⟨-, rfl⟩ | ⟨-, _, -, rfl⟩ := execRxRdb_next h
    · exact .kept rfl rfl rfl
    · exact .kept rfl rfl rfl
  | rxReg idx =>
    obtain ⟨-, rfl⟩ | ⟨-, -, rfl⟩ | ⟨-, -, _, _, -, -, rfl⟩ := execRxReg_next h
      <;> exact .kept rfl rfl rfl

/-! ## When a command answers a next state -/

theorem execWr_progress (sel : Byte) (data : Half) (s : State) :
    ∃ t, execWr sel data s = .next t := by
  unfold execWr
  split
  · split <;> exact ⟨_, rfl⟩
  all_goals exact ⟨_, rfl⟩

theorem execTxBuild_progress (s : State) : ∃ t, execTxBuild s = .next t := by
  unfold execTxBuild
  split <;> exact ⟨_, rfl⟩

theorem execRxPush_progress (b : Byte) (s : State) : ∃ t, execRxPush b s = .next t := by
  unfold execRxPush
  split
  · exact ⟨_, rfl⟩
  · split <;> exact ⟨_, rfl⟩

/-- A guarded read goes on to a next state when it gives something and what follows does. -/
theorem orStop_progress {α : Type} {r : Except Fault α} {k : α → StepOutcome}
    (hr : ∃ a, r = .ok a) (hk : ∀ a, r = .ok a → ∃ t, k a = .next t) :
    ∃ t, orStop r k = .next t := by
  obtain ⟨a, ha⟩ := hr
  obtain ⟨t, ht⟩ := hk a ha
  exact ⟨t, orStop_next.mpr ⟨a, ha, ht⟩⟩

/-- A response shorter than the minimum is never judged `OK` (43_response_parser.md R124). -/
theorem five_le_rxLen_of_judgeReceived_ok {s : State} (h : judgeReceived s = .ok .ok) :
    5 ≤ s.rxLen := by
  by_contra hlen
  have hshort : s.rxLen < Config.minRsp := by simpa [Config.minRsp] using hlen
  simp [judgeReceived, hshort] at h

end Sys2Proof.Machine

/-! ## The canonical form of the buffers is kept -/

namespace Sys2Proof.Safety

open Sys2Proof.Machine

theorem Canonical.withInputs {s : State} (h : Canonical s) (rest : List HostInput) :
    Canonical { s with inputs := rest } :=
  ⟨h.params_legal, h.txBuf_wf, h.rxBuf_wf, h.txBuf_range, h.rxBuf_range⟩

theorem Canonical.raiseFault {s : State} (h : Canonical s) (c : CmdFault) :
    Canonical (Machine.raiseFault c s) :=
  ⟨h.params_legal, h.txBuf_wf, h.rxBuf_wf, h.txBuf_range, h.rxBuf_range⟩

theorem Canonical.hardReset {s : State} (h : Canonical s) : Canonical (Machine.hardReset s) where
  params_legal := h.params_legal
  txBuf_wf := List.Pairwise.nil
  rxBuf_wf := List.Pairwise.nil
  txBuf_range := by simp
  rxBuf_range := by simp

/-- A request has the eight bytes `TXBUF` has cells for, and a byte is appended only below `RXCAP`,
so no command leaves a buffer's index space (20_memory.md R40, R46). -/
theorem Canonical.of_bufferEffect {s t : State} (h : Canonical s) (e : BufferEffect s t) :
    Canonical t := by
  cases e with
  | kept params tx rx =>
    constructor <;> simp only [params, tx, rx]
    exacts [h.params_legal, h.txBuf_wf, h.rxBuf_wf, h.txBuf_range, h.rxBuf_range]
  | built id addr cnt params tx rx =>
    constructor <;> simp only [params, tx, rx]
    · exact h.params_legal
    · exact Memory.writeFrom_wf 0 _ h.txBuf_wf
    · exact h.rxBuf_wf
    · intro c hc
      obtain ⟨-, hlt⟩ | hold := Memory.mem_writeFrom hc
      · simpa [buildRequest] using hlt
      · exact h.txBuf_range c hold
    · exact h.rxBuf_range
  | pushed b room params tx rx =>
    constructor <;> simp only [params, tx, rx]
    · exact h.params_legal
    · exact h.txBuf_wf
    · exact Memory.write_wf _ b h.rxBuf_wf
    · exact h.txBuf_range
    · intro c hc
      obtain rfl | hold := Memory.mem_write hc
      · exact room
      · exact h.rxBuf_range c hold

/-- Settles O49: every step either leaves both buffers alone, empties them (`rst`), or has the
effect of a command on them (`BufferEffect`). -/
theorem stepKeepsCanonicalBuffers : Obligations.StepKeepsCanonicalBuffers := by
  intro s t hs hstep
  obtain ⟨-, rfl⟩ | ⟨rest, -, rfl⟩ | ⟨_, rest, _, -, -, hexec⟩ | ⟨_, rest, _, -, -, rfl⟩ :=
    step_next hstep
  · exact hs
  · exact (hs.withInputs rest).hardReset
  · exact (hs.withInputs rest).of_bufferEffect (exec_bufferEffect hexec)
  · exact (hs.withInputs rest).raiseFault .illegalOp

/-! ## Under the invariants no read stops the machine

Items 6 and 11 of 10_state.md R33 make every cell a command may read a written one; each derived
value and each command is then followed to the cells it reads. -/

theorem StateInv.withInputs {s : State} (h : StateInv s) (rest : List HostInput) :
    StateInv { s with inputs := rest } :=
  ⟨h.txPtr_le, h.rxLen_le, h.ovf_full, h.verdict_has_request, h.request_frame, h.ok_frame,
    h.flags_clear, h.short_len, h.overrun_ovf, h.faults_bit0, h.rx_written⟩

section

variable {s : State} (h : StateInv s)
include h

theorem StateInv.readTx_exists (hv : s.txValid = true) {i : Nat} (hi : i < 8) :
    ∃ b, readTx s i = .ok b := by
  obtain ⟨f, hf, -⟩ := h.request_frame hv
  obtain ⟨-, hread⟩ := readSpan_ok.mp hf
  exact ⟨f.getD i 0#8, by simpa using hread i hi⟩

theorem StateInv.rxFrame_exists : ∃ f, rxFrame s = .ok f :=
  readSpan_exists fun k hk => by simpa using h.rx_written k hk

theorem StateInv.expLen_exists : ∃ n, expLen s = .ok n := by
  cases hv : s.txValid with
  | false => simp [expLen, hv]
  | true =>
    obtain ⟨hi, hhi⟩ := h.readTx_exists hv (i := 4) (by decide)
    obtain ⟨lo, hlo⟩ := h.readTx_exists hv (i := 5) (by decide)
    simp [expLen, reqCount, hv, hhi, hlo]

theorem StateInv.rxComplete_exists : ∃ c, rxComplete s = .ok c := by
  obtain ⟨n, hn⟩ := h.expLen_exists
  cases hv : s.txValid <;> simp [rxComplete, hv, hn]

theorem StateInv.readReg_exists (r : Reg) : ∃ v, readReg s r = .ok v := by
  cases r with
  | status =>
    obtain ⟨c, hc⟩ := h.rxComplete_exists
    simp [readReg, hc]
  | expLen =>
    obtain ⟨n, hn⟩ := h.expLen_exists
    simp [readReg, hn]
  | _ => exact ⟨_, rfl⟩

theorem StateInv.judgeReceived_exists (hv : s.txValid = true) : ∃ v, judgeReceived s = .ok v := by
  obtain ⟨rx, hrx⟩ := h.rxFrame_exists
  obtain ⟨id, hid⟩ := h.readTx_exists hv (i := 0) (by decide)
  unfold judgeReceived
  split
  · exact ⟨_, rfl⟩
  · split
    · exact ⟨_, rfl⟩
    · simp [hrx, hid]

/-- The flags are compared only for the verdict `OK`, and then bytes 1 and 2 were received. -/
theorem StateInv.matchFlags_exists (hv : s.txValid = true) {v : Verdict}
    (hlen : v = .ok → 5 ≤ s.rxLen) : ∃ flags, matchFlags s v = .ok flags := by
  by_cases hok : v = .ok
  · have hlen := hlen hok
    obtain ⟨fc, hfc⟩ := h.rx_written 1 (by omega)
    obtain ⟨reqFc, hreq⟩ := h.readTx_exists hv (i := 1) (by decide)
    obtain ⟨bc, hbc⟩ := h.rx_written 2 (by omega)
    simp [matchFlags, hok, hfc, hreq, hbc]
  · simp [matchFlags, hok]

theorem StateInv.execRd_progress (sel : Byte) : ∃ t, execRd sel s = .next t := by
  unfold execRd
  split
  · exact ⟨_, rfl⟩
  · exact orStop_progress (h.readReg_exists _) fun _ _ => ⟨_, rfl⟩

theorem StateInv.execTxRdb_progress (idx : Half) : ∃ t, execTxRdb idx s = .next t := by
  unfold execTxRdb
  split
  · exact ⟨_, rfl⟩
  next hv =>
    split
    · exact ⟨_, rfl⟩
    next hi =>
      exact orStop_progress (h.readTx_exists (by simpa using hv) (by omega)) fun _ _ => ⟨_, rfl⟩

/-- `TX_PTR` is at most 8 (item 1), and at 8 `TX.NEXT` faults before it reads. -/
theorem StateInv.execTxNext_progress : ∃ t, execTxNext s = .next t := by
  unfold execTxNext
  split
  · exact ⟨_, rfl⟩
  next hv =>
    split
    · exact ⟨_, rfl⟩
    next hp =>
      have hptr : s.txPtr.toNat < 8 :=
        lt_of_le_of_ne h.txPtr_le fun e => hp (BitVec.eq_of_toNat_eq e)
      exact orStop_progress (h.readTx_exists (by simpa using hv) hptr) fun _ _ => ⟨_, rfl⟩

theorem StateInv.execRxCheck_progress : ∃ t, execRxCheck s = .next t := by
  unfold execRxCheck
  split
  · exact ⟨_, rfl⟩
  next hv =>
    have hv : s.txValid = true := by simpa using hv
    refine orStop_progress (h.judgeReceived_exists hv) fun v hj => ?_
    refine orStop_progress (h.matchFlags_exists hv ?_) fun _ _ => ⟨_, rfl⟩
    rintro rfl
    exact five_le_rxLen_of_judgeReceived_ok hj

theorem StateInv.execRxRdb_progress (idx : Half) : ∃ t, execRxRdb idx s = .next t := by
  unfold execRxRdb
  split
  · exact ⟨_, rfl⟩
  next hi =>
    exact orStop_progress (h.rx_written _ (by omega)) fun _ _ => ⟨_, rfl⟩

/-- A register below `NREG` ends before the trailing checksum, so inside the received bytes. -/
theorem StateInv.execRxReg_progress (idx : Half) : ∃ t, execRxReg idx s = .next t := by
  unfold execRxReg
  split
  · exact ⟨_, rfl⟩
  · split
    · exact ⟨_, rfl⟩
    next hi =>
      have hlo : 4 + 2 * indexOf idx < s.rxLen := by
        unfold nregOf at hi
        omega
      exact orStop_progress (h.rx_written _ (by omega)) fun _ _ =>
        orStop_progress (h.rx_written _ hlo) fun _ _ => ⟨_, rfl⟩

theorem StateInv.exec_progress (i : Instr) : ∃ t, exec i s = .next t := by
  cases i with
  | nop => exact ⟨_, rfl⟩
  | rd sel => exact h.execRd_progress sel
  | wr sel data => exact execWr_progress sel data _
  | rst => exact ⟨_, rfl⟩
  | crcInit => exact ⟨_, rfl⟩
  | crcUpd b => exact ⟨_, rfl⟩
  | txBuild => exact execTxBuild_progress _
  | txRdb idx => exact h.execTxRdb_progress idx
  | txNext => exact h.execTxNext_progress
  | rxClr => exact ⟨_, rfl⟩
  | rxPush b => exact execRxPush_progress b _
  | rxCheck => exact h.execRxCheck_progress
  | rxRdb idx => exact h.execRxRdb_progress idx
  | rxReg idx => exact h.execRxReg_progress idx

end

/-- Settles O50: idling, `rst` and an illegal word always answer, and a command answers because the
invariants survive taking its word from the port. -/
theorem stepNeverStops : Obligations.StepNeverStops := by
  intro s h
  match hin : s.inputs with
  | [] => exact ⟨_, step_idle hin⟩
  | .resetPin :: rest => exact ⟨_, step_resetPin hin⟩
  | .command w :: rest =>
    cases hdec : decode w with
    | error e => exact ⟨_, step_illegal hin hdec⟩
    | ok i =>
      rw [step_command hin hdec]
      exact (h.withInputs rest).exec_progress i

/-! ## The port -/

/-- Settles O6: `step`'s equation for a word that decodes. -/
theorem stepRunsDecodedCommand : Obligations.StepRunsDecodedCommand :=
  fun _ _ _ _ hin hdec => step_command hin hdec

/-- Settles O7: `step`'s equation for an empty port. -/
theorem idleStepChangesNothing : Obligations.IdleStepChangesNothing :=
  fun _ hin => step_idle hin

end Sys2Proof.Safety

/-! ## What a command does to the whole state -/

namespace Sys2Proof.Safety

open Sys2Proof.Machine

/-- The state `t` in which the command `i` can leave the state `s`, with what the command found to
come there (60_exceptions.md R146, R148; 10_state.md R31). -/
inductive CommandEffect (i : Instr) (s : State) : State → Prop
  | faulted (c : CmdFault) (listed : c ∈ mayRaise i.command) : CommandEffect i s (raiseFault c s)
  | answered (d : Word) : CommandEffect i s (respond d s)
  | wroteRequest (op : i.command = .wr) (id : Byte) (addr cnt : Half) :
      CommandEffect i s (respond 0#32 { s with reqId := id, reqAddr := addr, reqCnt := cnt })
  | reset (op : i = .rst) : CommandEffect i s (respond 0#32 (resetRegisters (clearReceive s)))
  | wroteCrc (op : i.command ∈ [Command.crcInit, .crcUpd]) (c : Half) :
      CommandEffect i s (respond 0#32 { s with crc := c })
  | built (op : i = .txBuild) (id_ge : 1 ≤ s.reqId.toNat) (id_le : s.reqId.toNat ≤ 247) :
      CommandEffect i s
        (respond 0#32 (loadRequest (buildRequest s.reqId s.reqAddr s.reqCnt) (clearReceive s)))
  | handedOut (op : i = .txNext) (more : s.txPtr ≠ 8#4) (d : Word) :
      CommandEffect i s (respond d { s with txPtr := s.txPtr + 1#4 })
  | cleared (op : i = .rxClr) : CommandEffect i s (respond 0#32 (clearReceive s))
  | pushed (b : Byte) (op : i = .rxPush b) (unjudged : s.result = .none)
      (room : s.rxLen < s.params.rxcap) : CommandEffect i s (respond 0#32 (appendByte b s))
  | overflowed (b : Byte) (op : i = .rxPush b) (unjudged : s.result = .none)
      (full : s.params.rxcap ≤ s.rxLen) : CommandEffect i s (respond 0#32 { s with rxOvf := true })
  | judged (op : i = .rxCheck) (request : s.txValid = true) (v : Verdict) (fc bc : Bool)
      (verdict : judgeReceived s = .ok v) (flags : matchFlags s v = .ok (fc, bc)) (d : Word) :
      CommandEffect i s (respond d (setVerdict v fc bc s))

theorem exec_commandEffect {i : Instr} {s t : State} (h : exec i s = .next t) :
    CommandEffect i s t := by
  cases i with
  | nop =>
    obtain rfl := execNop_next.mp h
    exact .answered _
  | rd sel =>
    obtain ⟨-, rfl⟩ | ⟨_, _, -, -, rfl⟩ := execRd_next h
    · exact .faulted _ List.mem_cons_self
    · exact .answered _
  | wr sel data =>
    obtain ⟨-, -, rfl⟩ | ⟨-, -, rfl⟩ | ⟨-, rfl⟩ | ⟨-, rfl⟩ | ⟨-, -, -, rfl⟩ := execWr_next h
    · exact .faulted _ (List.mem_cons_of_mem _ List.mem_cons_self)
    · exact .wroteRequest rfl _ s.reqAddr s.reqCnt
    · exact .wroteRequest rfl s.reqId _ s.reqCnt
    · exact .wroteRequest rfl s.reqId s.reqAddr _
    · exact .faulted _ List.mem_cons_self
  | rst =>
    obtain rfl := execRst_next.mp h
    exact .reset rfl
  | crcInit =>
    obtain rfl := execCrcInit_next.mp h
    exact .wroteCrc List.mem_cons_self _
  | crcUpd b =>
    obtain rfl := execCrcUpd_next.mp h
    exact .wroteCrc (List.mem_cons_of_mem _ List.mem_cons_self) _
  | txBuild =>
    obtain ⟨-, rfl⟩ | ⟨hge, hle, rfl⟩ := execTxBuild_next h
    · exact .faulted _ List.mem_cons_self
    · exact .built rfl hge hle
  | txRdb idx =>
    obtain ⟨-, rfl⟩ | ⟨-, -, rfl⟩ | ⟨-, -, _, -, rfl⟩ := execTxRdb_next h
    · exact .faulted _ List.mem_cons_self
    · exact .faulted _ (List.mem_cons_of_mem _ List.mem_cons_self)
    · exact .answered _
  | txNext =>
    obtain ⟨-, rfl⟩ | ⟨-, hmore, _, -, rfl⟩ := execTxNext_next h
    · exact .faulted _ List.mem_cons_self
    · exact .handedOut rfl hmore _
  | rxClr =>
    obtain rfl := execRxClr_next.mp h
    exact .cleared rfl
  | rxPush b =>
    obtain ⟨-, rfl⟩ | ⟨hunj, hroom, rfl⟩ | ⟨hunj, hfull, rfl⟩ := execRxPush_next h
    · exact .faulted _ List.mem_cons_self
    · exact .pushed b rfl hunj hroom
    · exact .overflowed b rfl hunj hfull
  | rxCheck =>
    obtain ⟨-, rfl⟩ | ⟨hv, v, fc, bc, hj, hm, rfl⟩ := execRxCheck_next h
    · exact .faulted _ List.mem_cons_self
    · exact .judged rfl hv v fc bc hj hm _
  | rxRdb idx =>
    obtain ⟨-, rfl⟩ | ⟨-, _, -, rfl⟩ := execRxRdb_next h
    · exact .faulted _ List.mem_cons_self
    · exact .answered _
  | rxReg idx =>
    obtain ⟨-, rfl⟩ | ⟨-, -, rfl⟩ | ⟨-, -, _, _, -, -, rfl⟩ := execRxReg_next h
    · exact .faulted _ List.mem_cons_self
    · exact .faulted _ (List.mem_cons_of_mem _ List.mem_cons_self)
    · exact .answered _

/-- Settles O44: each effect of a command names the commands that have it, and writes no element
outside their rows. -/
theorem writeTable : Obligations.WriteTable := by
  intro i s t h
  cases exec_commandEffect h with
  | faulted c listed =>
    have hraises : mayRaise i.command ≠ [] := List.ne_nil_of_mem listed
    simp [hraises]
  | answered d => simp
  | wroteRequest op => simp [op]
  | reset op => simp [op, Instr.command]
  | wroteCrc op =>
    have hcrc : i.command = .crcInit ∨ i.command = .crcUpd := by simpa using op
    simpa using fun _ h1 h2 => (hcrc.elim h1 h2).elim
  | built op => simp [op, Instr.command]
  | handedOut op => simp [op, Instr.command]
  | cleared op => simp [op, Instr.command]
  | pushed b op => simp [op, Instr.command]
  | overflowed b op => simp [op, Instr.command]
  | judged op => simp [op, Instr.command]

/-! ## The invariants of the spec are kept

What each effect of a command leaves of 10_state.md R33, from the parts the effect wrote. -/

theorem toNat_bytes (hi lo : Byte) : (hi ++ lo : Half).toNat = lo.toNat + 256 * hi.toNat := by
  rw [BitVec.toNat_append, ← Nat.shiftLeft_add_eq_or_of_lt lo.isLt, Nat.shiftLeft_eq]
  omega

theorem toNat_loByte_add_hiByte (v : Half) :
    (loByte v).toNat + 256 * (hiByte v).toNat = v.toNat := by
  rw [← toNat_bytes, hiByte_append_loByte]

theorem carriesCrc_iff_crcGood {f : List Byte} : CarriesCrc f ↔ crcGood f = true := by
  rw [CarriesCrc, crcGood, beq_iff_eq, ← toNat_bytes, ← BitVec.toNat_inj]
  rfl

/-- A built request is well formed (42_request_serializer.md R106). -/
theorem requestFrame_buildRequest {id : Byte} (addr cnt : Half) (hge : 1 ≤ id.toNat)
    (hle : id.toNat ≤ 247) : RequestFrame (buildRequest id addr cnt) :=
  ⟨rfl, hge, hle, rfl, toNat_loByte_add_hiByte _⟩

theorem txFrame_loadRequest {f : List Byte} (hlen : f.length = 8) (s : State) :
    txFrame (loadRequest f s) = .ok f := by
  refine readSpan_ok.mpr ⟨hlen, fun k hk => readTx_ok.mpr ⟨by simpa using hk, ?_⟩⟩
  have hread := Memory.read_writeFrom s.txBuf 0 f (k := k) (by simpa [hlen] using hk)
  rw [loadRequest_txBuf, hread, List.getElem?_eq_getElem (by simpa [hlen] using hk)]
  simp [List.getD, hlen, hk]

/-- The verdict of 43_response_parser.md R124, its tests in their order. -/
theorem judgeReceived_ok {s : State} {v : Verdict} (h : judgeReceived s = .ok v) :
    (s.rxLen < 5 ∧ v = .short)
      ∨ (5 ≤ s.rxLen ∧ s.rxOvf = true ∧ v = .overrun)
      ∨ (5 ≤ s.rxLen ∧ s.rxOvf = false ∧ ∃ rx id, rxFrame s = .ok rx ∧ readTx s 0 = .ok id
          ∧ v = if crcGood rx = false then .crc
              else if rx.getD 0 0#8 ≠ id then .addr
              else .ok) := by
  unfold judgeReceived at h
  split at h
  next hshort =>
    cases h
    exact .inl ⟨hshort, rfl⟩
  next hlen =>
    have hlen : 5 ≤ s.rxLen := Nat.le_of_not_lt hlen
    split at h
    next hovf =>
      cases h
      exact .inr (.inl ⟨hlen, hovf, rfl⟩)
    next hovf =>
      split at h
      · cases h
      next rx hrx =>
        split at h
        · cases h
        next id hid =>
          obtain ⟨hrxlen, -⟩ := readSpan_ok.mp hrx
          cases h
          refine .inr (.inr ⟨hlen, by simpa using hovf, rx, id, hrx, hid, ?_⟩)
          rw [judge, if_neg (by rw [hrxlen]; exact Nat.not_lt.mpr hlen), if_neg (by decide)]

/-- What the verdict `OK` says of the received bytes (10_state.md R33 item 7). -/
theorem judgeReceived_eq_ok {s : State} (h : judgeReceived s = .ok .ok) :
    5 ≤ s.rxLen ∧ s.rxOvf = false ∧ (∃ id, readRx s 0 = .ok id ∧ readTx s 0 = .ok id)
      ∧ ∃ f, rxFrame s = .ok f ∧ CarriesCrc f := by
  obtain ⟨-, hv⟩ | ⟨-, -, hv⟩ | ⟨hlen, hovf, rx, id, hrx, hid, hv⟩ := judgeReceived_ok h
  · cases hv
  · cases hv
  · split at hv
    · cases hv
    next hcrc =>
      split at hv
      · cases hv
      next haddr =>
        obtain ⟨-, hread⟩ := readSpan_ok.mp hrx
        have hfirst := hread 0 (by omega)
        rw [not_not.mp haddr] at hfirst
        exact ⟨hlen, hovf, ⟨id, hfirst, hid⟩, rx, hrx,
          carriesCrc_iff_crcGood.mpr (by simpa using hcrc)⟩

theorem judgeReceived_eq_short {s : State} (h : judgeReceived s = .ok .short) : s.rxLen < 5 := by
  obtain ⟨hlen, -⟩ | ⟨-, -, hv⟩ | ⟨-, -, rx, id, -, -, hv⟩ := judgeReceived_ok h
  · exact hlen
  · cases hv
  · split_ifs at hv

theorem judgeReceived_eq_overrun {s : State} (h : judgeReceived s = .ok .overrun) :
    s.rxOvf = true := by
  obtain ⟨-, hv⟩ | ⟨-, hovf, -⟩ | ⟨-, -, rx, id, -, -, hv⟩ := judgeReceived_ok h
  · cases hv
  · exact hovf
  · split_ifs at hv

theorem matchFlags_of_ne_ok {v : Verdict} (s : State) (hv : v ≠ .ok) :
    matchFlags s v = .ok (false, false) := if_neg hv

/-- The invariants speak of no other register than `TX_PTR` and `FAULTS` beside the request, the
response and the verdict. -/
theorem StateInv.withRegisters {s : State} (h : StateInv s) {ptr : BitVec 4} {faults : BitVec 6}
    (hptr : ptr.toNat ≤ 8) (hfaults : faults.getLsbD 0 = false) (crc : Half) (id : Byte)
    (addr cnt : Half) (rsp : List Response) :
    StateInv { s with
      txPtr := ptr, faults := faults, crc := crc
      reqId := id, reqAddr := addr, reqCnt := cnt, responses := rsp } :=
  ⟨hptr, h.rxLen_le, h.ovf_full, h.verdict_has_request, h.request_frame, h.ok_frame,
    h.flags_clear, h.short_len, h.overrun_ovf, hfaults, h.rx_written⟩

theorem StateInv.respond {s : State} (h : StateInv s) (d : Word) :
    StateInv (Machine.respond d s) :=
  h.withRegisters h.txPtr_le h.faults_bit0 _ _ _ _ _

/-- No command fault has the code 0. -/
theorem StateInv.raiseFault {s : State} (h : StateInv s) (c : CmdFault) :
    StateInv (Machine.raiseFault c s) := by
  refine h.withRegisters h.txPtr_le ?_ _ _ _ _ _
  rw [BitVec.getLsbD_or, h.faults_bit0, Bool.false_or]
  cases c <;> rfl

/-- An empty receive side and a request that is well formed, if there is one, are all that
10_state.md R33 asks for. -/
theorem stateInv_of_receive_empty {s : State} (hlen : s.rxLen = 0) (hovf : s.rxOvf = false)
    (hres : s.result = .none) (hfc : s.fcMatch = false) (hbc : s.bcMatch = false)
    (hptr : s.txPtr.toNat ≤ 8) (hfaults : s.faults.getLsbD 0 = false)
    (hreq : s.txValid = true → ∃ f, txFrame s = .ok f ∧ RequestFrame f) : StateInv s where
  txPtr_le := hptr
  rxLen_le := by omega
  ovf_full := by simp [hovf]
  verdict_has_request := by simp [hres]
  request_frame := hreq
  ok_frame := by simp [hres]
  flags_clear := fun _ => ⟨hfc, hbc⟩
  short_len := by simp [hres]
  overrun_ovf := by simp [hres]
  faults_bit0 := hfaults
  rx_written := by simp [hlen]

theorem stateInv_resetWith (p : Params) : StateInv (State.resetWith p) :=
  stateInv_of_receive_empty rfl rfl rfl rfl rfl (Nat.zero_le 8) BitVec.getLsbD_zero nofun

theorem stateInv_hardReset (s : State) : StateInv (hardReset s) :=
  stateInv_of_receive_empty rfl rfl rfl rfl rfl (Nat.zero_le 8) BitVec.getLsbD_zero nofun

theorem stateInv_resetRegisters_clearReceive (s : State) :
    StateInv (resetRegisters (clearReceive s)) :=
  stateInv_of_receive_empty rfl rfl rfl rfl rfl (Nat.zero_le 8) BitVec.getLsbD_zero nofun

theorem StateInv.clearReceive {s : State} (h : StateInv s) : StateInv (Machine.clearReceive s) :=
  stateInv_of_receive_empty rfl rfl rfl rfl rfl h.txPtr_le h.faults_bit0 h.request_frame

theorem StateInv.loadRequest_clearReceive {s : State} (h : StateInv s) {f : List Byte}
    (hf : RequestFrame f) : StateInv (loadRequest f (Machine.clearReceive s)) := by
  obtain ⟨hlen, -⟩ := id hf
  exact stateInv_of_receive_empty rfl rfl rfl rfl rfl (Nat.zero_le 8) h.faults_bit0
    fun _ => ⟨f, txFrame_loadRequest hlen _, hf⟩

theorem StateInv.advance {s : State} (h : StateInv s) (hmore : s.txPtr ≠ 8#4) :
    StateInv { s with txPtr := s.txPtr + 1#4 } := by
  refine h.withRegisters ?_ h.faults_bit0 _ _ _ _ _
  have hne : s.txPtr.toNat ≠ 8 := fun e => hmore (BitVec.eq_of_toNat_eq e)
  have hle := h.txPtr_le
  rw [BitVec.toNat_add_of_lt]
  all_goals simp only [BitVec.toNat_ofNat]; omega

theorem readRx_appendByte_self {s : State} (b : Byte) (room : s.rxLen < s.params.rxcap) :
    readRx (appendByte b s) s.rxLen = .ok b :=
  readRx_ok.mpr ⟨room, Memory.read_write_same _ _ _⟩

theorem readRx_appendByte_of_ne {s : State} (b : Byte) {i : Nat} (hi : i ≠ s.rxLen) :
    readRx (appendByte b s) i = readRx s i := by
  simp only [readRx, readCell, appendByte_params, appendByte_rxBuf, Memory.read_write_other _ _ hi]

theorem StateInv.appendByte {s : State} (h : StateInv s) (b : Byte) (hunj : s.result = .none)
    (room : s.rxLen < s.params.rxcap) : StateInv (Machine.appendByte b s) where
  txPtr_le := h.txPtr_le
  rxLen_le := room
  ovf_full := fun hovf => absurd (h.ovf_full hovf) room.ne
  verdict_has_request := h.verdict_has_request
  request_frame := h.request_frame
  ok_frame := by simp [hunj]
  flags_clear := h.flags_clear
  short_len := by simp [hunj]
  overrun_ovf := by simp [hunj]
  faults_bit0 := h.faults_bit0
  rx_written := by
    intro i hi
    by_cases hlast : i = s.rxLen
    · subst hlast
      exact ⟨b, readRx_appendByte_self b room⟩
    · rw [readRx_appendByte_of_ne b hlast]
      have hi : i < s.rxLen + 1 := hi
      exact h.rx_written i (by omega)

theorem StateInv.overflow {s : State} (h : StateInv s) (hunj : s.result = .none)
    (full : s.params.rxcap ≤ s.rxLen) : StateInv { s with rxOvf := true } where
  txPtr_le := h.txPtr_le
  rxLen_le := h.rxLen_le
  ovf_full := fun _ => le_antisymm h.rxLen_le full
  verdict_has_request := h.verdict_has_request
  request_frame := h.request_frame
  ok_frame := by simp [hunj]
  flags_clear := h.flags_clear
  short_len := by simp [hunj]
  overrun_ovf := fun _ => rfl
  faults_bit0 := h.faults_bit0
  rx_written := h.rx_written

/-- A verdict that judging the received bytes gives says of them what items 7 to 9 of 10_state.md
R33 ask. -/
theorem StateInv.setVerdict {s : State} (h : StateInv s) (hreq : s.txValid = true) {v : Verdict}
    {fc bc : Bool} (hv : judgeReceived s = .ok v) (hflags : matchFlags s v = .ok (fc, bc)) :
    StateInv (Machine.setVerdict v fc bc s) where
  txPtr_le := h.txPtr_le
  rxLen_le := h.rxLen_le
  ovf_full := h.ovf_full
  verdict_has_request := fun _ => hreq
  request_frame := h.request_frame
  ok_frame := by
    rintro rfl
    exact judgeReceived_eq_ok hv
  flags_clear := by
    intro (hne : v ≠ .ok)
    rw [matchFlags_of_ne_ok s hne] at hflags
    cases hflags
    exact ⟨rfl, rfl⟩
  short_len := by
    rintro rfl
    exact judgeReceived_eq_short hv
  overrun_ovf := by
    rintro rfl
    exact judgeReceived_eq_overrun hv
  faults_bit0 := h.faults_bit0
  rx_written := h.rx_written

theorem StateInv.of_commandEffect {i : Instr} {s t : State} (h : StateInv s)
    (e : CommandEffect i s t) : StateInv t := by
  cases e with
  | faulted c => exact h.raiseFault c
  | answered d => exact h.respond d
  | wroteRequest => exact h.withRegisters h.txPtr_le h.faults_bit0 _ _ _ _ _
  | reset => exact (stateInv_resetRegisters_clearReceive s).respond _
  | wroteCrc => exact h.withRegisters h.txPtr_le h.faults_bit0 _ _ _ _ _
  | built _ id_ge id_le =>
    exact (h.loadRequest_clearReceive (requestFrame_buildRequest _ _ id_ge id_le)).respond _
  | handedOut _ more => exact (h.advance more).respond _
  | cleared => exact h.clearReceive.respond _
  | pushed b _ unjudged room => exact (h.appendByte b unjudged room).respond _
  | overflowed _ _ unjudged full => exact (h.overflow unjudged full).respond _
  | judged _ request _ _ _ verdict flags => exact (h.setVerdict request verdict flags).respond _

/-- Settles O47: the reset state has nothing received and no request, and a step idles, resets,
faults or has the effect of a command. -/
theorem stepKeepsInvariants : Obligations.StepKeepsInvariants := by
  refine ⟨stateInv_resetWith, fun s t h hstep => ?_⟩
  obtain ⟨-, rfl⟩ | ⟨rest, -, rfl⟩ | ⟨_, rest, _, -, -, hexec⟩ | ⟨_, rest, _, -, -, rfl⟩ :=
    step_next hstep
  · exact h
  · exact stateInv_hardReset _
  · exact (h.withInputs rest).of_commandEffect (exec_commandEffect hexec)
  · exact (h.withInputs rest).raiseFault .illegalOp

/-- Settles O46. -/
theorem resetMeetsInvariants : Obligations.ResetMeetsInvariants :=
  ⟨stateInv_resetWith _, fun hne => absurd rfl hne,
    ⟨by decide, List.Pairwise.nil, List.Pairwise.nil, nofun, nofun⟩⟩

/-! ## A standing verdict stays current -/

/-- Where a command leaves a verdict standing, it changed nothing that verdict was judged from, or
it has just judged it: the receive side is open to `RX.PUSH` only without a verdict. -/
theorem VerdictCurrent.of_commandEffect {i : Instr} {s t : State} (h : VerdictCurrent s)
    (e : CommandEffect i s t) : VerdictCurrent t := by
  cases e with
  | faulted => exact h
  | answered => exact h
  | wroteRequest => exact h
  | wroteCrc => exact h
  | handedOut => exact h
  | reset => exact fun hne => absurd rfl hne
  | built => exact fun hne => absurd rfl hne
  | cleared => exact fun hne => absurd rfl hne
  | pushed _ _ unjudged => exact fun hne => absurd unjudged hne
  | overflowed _ _ unjudged => exact fun hne => absurd unjudged hne
  | judged _ _ _ _ _ verdict flags => exact fun _ => ⟨verdict, flags⟩

/-- Settles O48. -/
theorem stepKeepsVerdictCurrent : Obligations.StepKeepsVerdictCurrent := by
  intro s t h hstep
  obtain ⟨-, rfl⟩ | ⟨rest, -, rfl⟩ | ⟨_, rest, _, -, -, hexec⟩ | ⟨_, rest, _, -, -, rfl⟩ :=
    step_next hstep
  · exact h
  · exact fun hne => absurd rfl hne
  · have hrest : VerdictCurrent { s with inputs := rest } := h
    exact hrest.of_commandEffect (exec_commandEffect hexec)
  · exact h

/-! ## The bits of `FAULTS` are sticky -/

theorem commandOf_eq_rst : ∀ {op : Byte}, commandOf op = some .rst → op = 0x03#8 := by
  decide

/-- `RST` has one word (40_host_access.md R83). -/
theorem decode_eq_rst {w : Word} (h : decode w = .ok .rst) : w = 0x03000000#32 := by
  obtain ⟨c, hc, hzero, hi⟩ := decode_ok.mp h
  obtain rfl : c = .rst := by
    rw [← command_assemble c w, hi]
    rfl
  obtain ⟨hsel, hdata⟩ : selField w = 0#8 ∧ dataField w = 0#16 := by
    simpa [formatOf, mustBeZeroHolds] using hzero
  rw [← packWord_fields w, commandOf_eq_rst hc, hsel, hdata]
  rfl

theorem getLsbD_faults_of_commandEffect {i : Instr} {s t : State} (e : CommandEffect i s t)
    (hi : i ≠ .rst) {n : Nat} (hn : s.faults.getLsbD n = true) : t.faults.getLsbD n = true := by
  cases e with
  | faulted => simp [hn]
  | reset op => exact absurd op hi
  | _ => exact hn

/-- Settles O43. -/
theorem faultsStickyUntilReset : Obligations.FaultsStickyUntilReset := by
  intro s t n hstep hpin hrst hn
  obtain ⟨-, rfl⟩ | ⟨rest, hin, rfl⟩ | ⟨w, rest, i, hin, hdec, hexec⟩ | ⟨_, rest, _, -, -, rfl⟩ :=
    step_next hstep
  · exact hn
  · simp [hin] at hpin
  · refine getLsbD_faults_of_commandEffect (exec_commandEffect hexec) ?_ hn
    rintro rfl
    simp [hin, decode_eq_rst hdec] at hrst
  · simp [hn]

end Sys2Proof.Safety

/-! ## What no command can read is never observed -/

namespace Sys2Proof.Safety

open Sys2Proof.Machine

/-- An update that neither looks at a buffer nor writes one, and makes no cell readable that was
not. -/
structure BufferBlind (g : State → State) : Prop where
  commutes : ∀ (s : State) (tx rx : Memory),
    g { s with txBuf := tx, rxBuf := rx } = { g s with txBuf := tx, rxBuf := rx } := by
    intros; rfl
  params : ∀ s, (g s).params = s.params := by intros; rfl
  txValid : ∀ s, (g s).txValid = true → s.txValid = true := by exact fun _ => id
  rxLen : ∀ s, (g s).rxLen ≤ s.rxLen := by exact fun _ => le_rfl

section

variable {g : State → State} (hg : BufferBlind g)
include hg

theorem BufferBlind.buffers (s : State) : (g s).txBuf = s.txBuf ∧ (g s).rxBuf = s.rxBuf :=
  have hkept := hg.commutes s s.txBuf s.rxBuf
  ⟨(congrArg State.txBuf hkept :), (congrArg State.rxBuf hkept :)⟩

theorem BufferBlind.readTx (s : State) (i : Nat) : readTx (g s) i = readTx s i := by
  obtain ⟨htx, -⟩ := hg.buffers s
  simp only [Machine.readTx, htx]

theorem BufferBlind.readRx (s : State) (i : Nat) : readRx (g s) i = readRx s i := by
  obtain ⟨-, hrx⟩ := hg.buffers s
  simp only [Machine.readRx, hrx, hg.params]

theorem SameVisible.map {s t : State} (h : SameVisible s t) : SameVisible (g s) (g t) where
  rest := by
    obtain ⟨htx, hrx⟩ := hg.buffers t
    rw [htx, hrx, ← hg.commutes, h.rest]
  tx hv i hi := by
    rw [hg.readTx, hg.readTx]
    exact h.tx (hg.txValid s hv) i hi
  rx i hi := by
    rw [hg.readRx, hg.readRx]
    exact h.rx i (lt_of_lt_of_le hi (hg.rxLen s))

end

theorem SameVisible.refl (s : State) : SameVisible s s := ⟨rfl, fun _ _ _ => rfl, fun _ _ => rfl⟩

theorem bufferBlind_respond (d : Word) : BufferBlind (respond d) := {}

theorem bufferBlind_raiseFault (c : CmdFault) : BufferBlind (raiseFault c) := {}

theorem bufferBlind_clearReceive : BufferBlind clearReceive where
  rxLen s := Nat.zero_le s.rxLen

theorem bufferBlind_resetRegisters : BufferBlind resetRegisters where
  txValid _ := nofun

theorem bufferBlind_setVerdict (v : Verdict) (fc bc : Bool) : BufferBlind (setVerdict v fc bc) := {}

section

variable {s t : State} (h : SameVisible s t)
include h

/-- What is read without a look at the buffers is the same in both states. -/
theorem SameVisible.agree {α : Sort*} (f : State → α)
    (hf : ∀ (u : State) (tx rx : Memory), f { u with txBuf := tx, rxBuf := rx } = f u := by
      intros; rfl) : f s = f t := by
  rw [← hf s t.txBuf t.rxBuf, h.rest]

/-- With a built request the whole of `TXBUF` is visible; past its end there is no cell. -/
theorem SameVisible.readTx_eq (hv : s.txValid = true) (i : Nat) : readTx s i = readTx t i := by
  by_cases hi : i < 8
  · exact h.tx hv i hi
  · simp [readTx, readCell, Config.reqLen, hi]

theorem SameVisible.expLen_eq : expLen s = expLen t := by
  unfold expLen
  rw [← h.agree State.txValid]
  split
  next hv => simp only [reqCount, h.readTx_eq hv]
  next => rfl

theorem SameVisible.rxComplete_eq : rxComplete s = rxComplete t := by
  simp only [rxComplete, h.agree State.txValid, h.expLen_eq, h.agree State.rxLen]

theorem SameVisible.readReg_eq (r : Reg) : readReg s r = readReg t r := by
  cases r with
  | status => simp only [readReg, h.rxComplete_eq, h.agree statusWord]
  | expLen => simp only [readReg, h.expLen_eq]
  | _ => exact h.agree (readReg · _)

theorem SameVisible.judgeReceived_eq (hv : s.txValid = true) :
    judgeReceived s = judgeReceived t := by
  have hframe : rxFrame s = rxFrame t := by
    unfold rxFrame
    rw [← h.agree State.rxLen]
    exact readSpan_congr fun k hk => h.rx _ (by omega)
  simp only [judgeReceived, hframe, h.readTx_eq hv, h.agree State.rxLen, h.agree State.rxOvf]

/-- The flags are compared only under the verdict `OK`, and then the bytes they need were
received. -/
theorem SameVisible.matchFlags_eq (hv : s.txValid = true) {v : Verdict}
    (hjudged : judgeReceived s = .ok v) : matchFlags s v = matchFlags t v := by
  unfold matchFlags
  split
  next hok =>
    subst hok
    have hlen := five_le_rxLen_of_judgeReceived_ok hjudged
    rw [h.rx 1 (by omega), h.rx 2 (by omega), h.readTx_eq hv, h.agree State.rxLen]
  next => rfl

theorem SameVisible.loadRequest {f : List Byte} (hlen : f.length = 8) :
    SameVisible (Machine.loadRequest f s) (Machine.loadRequest f t) where
  rest := (congrArg (fun u : State => { u with
    txBuf := Memory.writeFrom t.txBuf 0 f, txValid := true, txPtr := 0#4 }) h.rest :)
  tx _ i hi := by
    have hread (m : Memory) : Memory.read (Memory.writeFrom m 0 f) i = f[i]? := by
      simpa using Memory.read_writeFrom m 0 f (k := i) (by omega)
    simp only [readTx, readCell, loadRequest_txBuf, hread]
  rx := h.rx

theorem SameVisible.appendByte (b : Byte) :
    SameVisible (Machine.appendByte b s) (Machine.appendByte b t) where
  rest := (congrArg (fun u : State => { Machine.appendByte b u with
    rxBuf := Memory.write t.rxBuf t.rxLen b }) h.rest :)
  tx := h.tx
  rx i hi := by
    by_cases hlast : i = s.rxLen
    · subst hlast
      simp only [readRx, readCell, appendByte_params, appendByte_rxBuf, ← h.agree State.rxLen,
        ← h.agree State.params, Memory.read_write_same]
    · rw [readRx_appendByte_of_ne b hlast, readRx_appendByte_of_ne b (h.agree State.rxLen ▸ hlast)]
      have hi : i < s.rxLen + 1 := hi
      exact h.rx i (by omega)

theorem SameVisible.answered (d : Word) :
    SameOutcome (.next (respond d s)) (.next (respond d t)) :=
  .next (h.map (bufferBlind_respond d))

theorem SameVisible.faulted (c : CmdFault) :
    SameOutcome (.next (raiseFault c s)) (.next (raiseFault c t)) :=
  .next (h.map (bufferBlind_raiseFault c))

end

/-- Two guarded reads that gave the same go on alike when what follows them does. -/
theorem SameOutcome.orStop {α : Type} {r r' : Except Fault α} {k k' : α → StepOutcome}
    (hr : r = r') (hk : ∀ a, r = .ok a → SameOutcome (k a) (k' a)) :
    SameOutcome (orStop r k) (orStop r' k') := by
  subst hr
  cases r with
  | error f => exact .fault f
  | ok a => exact hk a rfl

theorem SameOutcome.ite {c c' : Prop} [Decidable c] [Decidable c'] {a b a' b' : StepOutcome}
    (hc : c = c') (ha : c → SameOutcome a a') (hb : ¬ c → SameOutcome b b') :
    SameOutcome (if c then a else b) (if c' then a' else b') := by
  subst hc
  by_cases hc : c
  · rw [if_pos hc, if_pos hc]
    exact ha hc
  · rw [if_neg hc, if_neg hc]
    exact hb hc

section

variable {s t : State} (h : SameVisible s t)
include h

theorem SameVisible.execRd (sel : Byte) : SameOutcome (execRd sel s) (execRd sel t) := by
  unfold Machine.execRd
  split
  · exact h.faulted _
  · exact .orStop (h.readReg_eq _) fun v _ => h.answered v

theorem SameVisible.execWr (sel : Byte) (data : Half) :
    SameOutcome (execWr sel data s) (execWr sel data t) := by
  unfold Machine.execWr
  split
  · refine .ite rfl (fun _ => h.faulted _) fun _ => ?_
    exact (h.map (g := fun u => { u with reqId := loByte data }) {}).answered _
  · exact (h.map (g := fun u => { u with reqAddr := data }) {}).answered _
  · exact (h.map (g := fun u => { u with reqCnt := data }) {}).answered _
  · exact h.faulted _

theorem SameVisible.execTxBuild : SameOutcome (execTxBuild s) (execTxBuild t) := by
  unfold Machine.execTxBuild
  rw [← h.agree State.reqId, ← h.agree State.reqAddr, ← h.agree State.reqCnt]
  exact .ite rfl (fun _ => h.faulted _) fun _ =>
    ((h.map bufferBlind_clearReceive).loadRequest rfl).answered _

theorem SameVisible.execTxRdb (idx : Half) : SameOutcome (execTxRdb idx s) (execTxRdb idx t) := by
  refine .ite (h.agree (·.txValid = false)) (fun _ => h.faulted _) fun hv => ?_
  refine .ite rfl (fun _ => h.faulted _) fun _ => ?_
  exact .orStop (h.readTx_eq (by simpa using hv) _) fun b _ => h.answered _

theorem SameVisible.execTxNext : SameOutcome (execTxNext s) (execTxNext t) := by
  refine .ite (h.agree (·.txValid = false)) (fun _ => h.faulted _) fun hv => ?_
  refine .ite (h.agree (·.txPtr = 8#4)) (fun _ => h.faulted _) fun _ => ?_
  have hread : readTx s s.txPtr.toNat = readTx t t.txPtr.toNat := by
    rw [h.readTx_eq (by simpa using hv), h.agree State.txPtr]
  exact .orStop hread fun b _ =>
    (h.map (g := fun u => { u with txPtr := u.txPtr + 1#4 }) {}).answered _

theorem SameVisible.execRxPush (b : Byte) : SameOutcome (execRxPush b s) (execRxPush b t) := by
  refine .ite (h.agree (·.result ≠ .none)) (fun _ => h.faulted _) fun _ => ?_
  refine .ite (h.agree fun u => u.rxLen < u.params.rxcap) (fun _ => (h.appendByte b).answered _)
    fun _ => ?_
  exact (h.map (g := fun u => { u with rxOvf := true }) {}).answered _

theorem SameVisible.execRxCheck : SameOutcome (execRxCheck s) (execRxCheck t) := by
  refine .ite (h.agree (·.txValid = false)) (fun _ => h.faulted _) fun hv => ?_
  have hv : s.txValid = true := by simpa using hv
  refine .orStop (h.judgeReceived_eq hv) fun v hj => ?_
  refine .orStop (h.matchFlags_eq hv hj) fun flags _ => ?_
  exact (h.map (bufferBlind_setVerdict v flags.1 flags.2)).answered _

theorem SameVisible.execRxRdb (idx : Half) : SameOutcome (execRxRdb idx s) (execRxRdb idx t) := by
  refine .ite (h.agree (·.rxLen ≤ indexOf idx)) (fun _ => h.faulted _) fun hi => ?_
  exact .orStop (h.rx _ (by omega)) fun b _ => h.answered _

/-- A register below `NREG` ends inside the received bytes. -/
theorem SameVisible.execRxReg (idx : Half) : SameOutcome (execRxReg idx s) (execRxReg idx t) := by
  refine .ite (h.agree (·.result ≠ .ok)) (fun _ => h.faulted _) fun _ => ?_
  refine .ite (h.agree fun u => nregOf u.rxLen ≤ indexOf idx) (fun _ => h.faulted _) fun hi => ?_
  have hlo : 4 + 2 * indexOf idx < s.rxLen := by
    unfold nregOf at hi
    omega
  exact .orStop (h.rx _ (by omega)) fun _ _ => .orStop (h.rx _ hlo) fun _ _ => h.answered _

theorem SameVisible.exec (i : Instr) : SameOutcome (exec i s) (exec i t) := by
  cases i with
  | nop => exact h.answered _
  | rd sel => exact h.execRd sel
  | wr sel data => exact h.execWr sel data
  | rst => exact ((h.map bufferBlind_clearReceive).map bufferBlind_resetRegisters).answered _
  | crcInit => exact (h.map (g := fun u => { u with crc := crcInitial }) {}).answered _
  | crcUpd b =>
    exact (h.map (g := fun u => { u with crc := crcUnitStep u.params.crcImpl u.crc b })
      {}).answered _
  | txBuild => exact h.execTxBuild
  | txRdb idx => exact h.execTxRdb idx
  | txNext => exact h.execTxNext
  | rxClr => exact (h.map bufferBlind_clearReceive).answered _
  | rxPush b => exact h.execRxPush b
  | rxCheck => exact h.execRxCheck
  | rxRdb idx => exact h.execRxRdb idx
  | rxReg idx => exact h.execRxReg idx

end

/-- Settles O51: the port is no buffer, so both states take the same input; `rst` leaves nothing of
either buffer, and a command reads only visible cells (`SameVisible.exec`). -/
theorem unreadableCellsNeverObserved : Obligations.UnreadableCellsNeverObserved := by
  intro s t h
  have hrest (rest : List HostInput) :
      SameVisible { s with inputs := rest } { t with inputs := rest } :=
    h.map (g := fun u => { u with inputs := rest }) {}
  match hin : s.inputs with
  | [] =>
    rw [step_idle hin, step_idle (h.agree State.inputs ▸ hin)]
    exact .next h
  | .resetPin :: rest =>
    rw [step_resetPin hin, step_resetPin (h.agree State.inputs ▸ hin), (hrest rest).agree hardReset]
    exact .next (.refl _)
  | .command w :: rest =>
    have hin' : t.inputs = .command w :: rest := h.agree State.inputs ▸ hin
    cases hdec : decode w with
    | error e =>
      rw [step_illegal hin hdec, step_illegal hin' hdec]
      exact (hrest rest).faulted _
    | ok i =>
      rw [step_command hin hdec, step_command hin' hdec]
      exact (hrest rest).exec i

end Sys2Proof.Safety

/-! ## The CRC unit -/

namespace Sys2Proof.Machine

theorem crcShift_xor (a b : Half) : crcShift (a ^^^ b) = crcShift a ^^^ crcShift b := by
  simp only [crcShift, BitVec.getLsbD_xor, BitVec.ushiftRight_xor_distrib]
  cases a.getLsbD 0 <;> cases b.getLsbD 0
  case true.true =>
    calc a >>> 1 ^^^ b >>> 1 = (a >>> 1 ^^^ b >>> 1) ^^^ (crcPoly ^^^ crcPoly) := by simp
      _ = (a >>> 1 ^^^ crcPoly) ^^^ (b >>> 1 ^^^ crcPoly) := by ac_rfl
  case false.false => rfl
  case false.true => exact BitVec.xor_assoc ..
  case true.false =>
    show (a >>> 1 ^^^ b >>> 1) ^^^ crcPoly = (a >>> 1 ^^^ crcPoly) ^^^ b >>> 1
    ac_rfl

/-- The loop of 41_crc.md R91 is linear over exclusive or. -/
theorem crcShifts_xor (n : Nat) (a b : Half) :
    crcShifts n (a ^^^ b) = crcShifts n a ^^^ crcShifts n b := by
  induction n generalizing a b with
  | zero => rfl
  | succ n ih => rw [crcShifts, crcShift_xor, ih, crcShifts, crcShifts]

/-- While the bits shifted out are 0, the loop only shifts. -/
theorem crcShifts_eq_ushiftRight (n : Nat) {c : Half} (hlow : ∀ i, i < n → c.getLsbD i = false) :
    crcShifts n c = c >>> n := by
  induction n generalizing c with
  | zero => simp [crcShifts]
  | succ n ih =>
    have hshift : crcShift c = c >>> 1 := by
      rw [crcShift, hlow 0 (by omega)]
      rfl
    rw [crcShifts, hshift, ih (fun i hi => by simpa using hlow (1 + i) (by omega)),
      ← BitVec.shiftRight_add, Nat.add_comm]

/-- Each entry of the printed table is the step of its index (41_crc.md R95). -/
theorem crcTableEntry_eq : ∀ i : Byte, crcTableEntry i = crcShifts 8 (i.setWidth 16) := by
  decide +kernel

/-- Eight passes shift the high byte down and step the low byte, which the table gives. -/
theorem crcShifts_eight (x : Half) : crcShifts 8 x = x >>> 8 ^^^ crcTableEntry (loByte x) := by
  have hsplit : x = x >>> 8 <<< 8 ^^^ (loByte x).setWidth 16 := by
    apply BitVec.eq_of_getLsbD_eq
    intro i hi
    by_cases hlow : i < 8
    · simp [loByte, hlow, hi]
    · have hback : 8 + (i - 8) = i := by omega
      simp [loByte, hlow, hi, hback]
  have hhigh : crcShifts 8 (x >>> 8 <<< 8) = x >>> 8 := by
    rw [crcShifts_eq_ushiftRight 8 fun i hi => by simp [hi]]
    apply BitVec.eq_of_toNat_eq
    simp only [BitVec.toNat_ushiftRight, BitVec.toNat_shiftLeft, Nat.shiftRight_eq_div_pow,
      Nat.shiftLeft_eq]
    omega
  conv_lhs => rw [hsplit]
  rw [crcShifts_xor, hhigh, crcTableEntry_eq]

theorem setWidth_ushiftRight_eight (b : Byte) : (b.setWidth 16 : Half) >>> 8 = 0#16 := by
  apply BitVec.eq_of_toNat_eq
  simp only [BitVec.toNat_ushiftRight, BitVec.toNat_setWidth, BitVec.toNat_ofNat,
    Nat.shiftRight_eq_div_pow]
  omega

/-- The two algorithms make the same step (41_crc.md R94). -/
theorem crc16StepTable_eq (c : Half) (b : Byte) : crc16StepTable c b = crc16Step c b := by
  rw [crc16Step, crcShifts_eight, BitVec.ushiftRight_xor_distrib, setWidth_ushiftRight_eight,
    BitVec.xor_zero, crc16StepTable]

theorem crcUnitStep_eq (impl : CrcImpl) (c : Half) (b : Byte) :
    crcUnitStep impl c b = crc16Step c b := by
  cases impl with
  | bitwise => rfl
  | table => exact crc16StepTable_eq c b

end Sys2Proof.Machine

namespace Sys2Proof.Safety

open Sys2Proof.Machine

/-- A command list that completes is a first command that completes and the rest from there. -/
theorem execAll_cons_next {i : Instr} {is : List Instr} {s t : State} :
    execAll (i :: is) s = .next t ↔ ∃ u, exec i s = .next u ∧ execAll is u = .next t := by
  simp only [execAll]
  cases exec i s <;> simp

/-- `CRC` after commands that do not set it anew: the bytes fed, folded into what it was. -/
theorem execAll_crc {is : List Instr} {s t : State} (his : ∀ i ∈ is, i ≠ .crcInit ∧ i ≠ .rst)
    (h : execAll is s = .next t) : t.crc = crc16 s.crc (fedBytes is) := by
  induction is generalizing s with
  | nil =>
    cases h
    rfl
  | cons i is ih =>
    obtain ⟨u, hu, ht⟩ := execAll_cons_next.mp h
    obtain ⟨⟨hinit, hrst⟩, hrest⟩ := List.forall_mem_cons.mp his
    rw [ih hrest ht]
    cases i with
    | crcInit => exact absurd rfl hinit
    | rst => exact absurd rfl hrst
    | crcUpd b =>
      obtain rfl := execCrcUpd_next.mp hu
      simp only [respond_crc, crcUnitStep_eq, fedBytes, crc16]
    | _ =>
      obtain ⟨hcrc, -⟩ := writeTable _ s u hu
      rw [hcrc (by simp [Instr.command]), fedBytes]
      all_goals nofun

/-- Settles O23. -/
theorem crcHoldsChecksumOfFedBytes : Obligations.CrcHoldsChecksumOfFedBytes := by
  intro s t is his h
  obtain ⟨u, hu, ht⟩ := execAll_cons_next.mp h
  obtain rfl := execCrcInit_next.mp hu
  exact execAll_crc his ht

end Sys2Proof.Safety

/-! ## The registers `RD` returns -/

namespace Sys2Proof.Safety

open Sys2Proof.Machine

/-! ### Outcomes and words, in the claims' terms -/

theorem faulted_eq_raiseFault (c : CmdFault) (s : State) : faulted c s = raiseFault c s := by
  cases c <;> rfl

theorem runs_of_decode {w : Word} {i : Instr} (h : decode w = .ok i) : Runs w i :=
  fun _ _ hin => step_command hin h

theorem illegal_of_decode {w : Word} {e : Reject} (h : decode w = .error e) : Illegal w := by
  intro s rest hin
  rw [step_illegal hin h, faulted_eq_raiseFault]

/-- Once the opcode is known, only the bits that must be 0 are left to test. -/
theorem decode_of_commandOf {w : Word} {c : Command} (h : commandOf (opField w) = some c) :
    decode w = if mustBeZeroHolds (formatOf c) w then .ok (assemble c w)
      else .error (.mustBeZero (formatOf c)) := by
  simp only [decode, h]

theorem formatS_of_commandOf {op : Byte} {c : Command} {i : Byte → Instr}
    (hop : commandOf op = some c) (hformat : formatOf c = .s)
    (hi : ∀ w, assemble c w = i (selField w)) : FormatS op i := by
  rintro w rfl
  have hdec := decode_of_commandOf hop
  rw [hformat, hi] at hdec
  refine ⟨fun hdata => runs_of_decode (hdec.trans (if_pos ?_)),
    fun hdata => illegal_of_decode (hdec.trans (if_neg ?_))⟩
  · simp [mustBeZeroHolds, hdata]
  · simp [mustBeZeroHolds, hdata]

/-! ### One register -/

theorem exec_rd_of_readReg {sel : Byte} {r : Reg} {s : State} {v : Word}
    (hsel : regOfSel sel = some r) (hread : readReg s r = .ok v) :
    exec (.rd sel) s = .next (answered v s) := by
  show execRd sel s = _
  rw [execRd, hsel]
  simp only [hread]
  rfl

theorem regOfSel_eq_none {sel : Byte} (h : 0x0B < sel.toNat) : regOfSel sel = none := by
  have hne (k : Byte) (hk : k.toNat ≤ 0x0B) : sel ≠ k := by
    rintro rfl
    omega
  simp [regOfSel, hne]

theorem expLen_of_txValid_false {s : State} (hv : s.txValid = false) : expLen s = .ok 0 := by
  simp [expLen, hv]

section

variable {s : State} {hi lo : Byte} (hv : s.txValid = true) (hhi : readTx s 4 = .ok hi)
  (hlo : readTx s 5 = .ok lo)
include hv hhi hlo

theorem expLen_of_count : expLen s = .ok (5 + 2 * (hi.toNat * 256 + lo.toNat)) := by
  simp [expLen, reqCount, hv, hhi, hlo]

theorem rxComplete_of_count :
    rxComplete s = .ok (decide (5 + 2 * (hi.toNat * 256 + lo.toNat) ≤ s.rxLen)) := by
  simp [rxComplete, hv, expLen_of_count hv hhi hlo]

end

theorem rxComplete_of_txValid_false {s : State} (hv : s.txValid = false) :
    rxComplete s = .ok false := by
  simp [rxComplete, hv]

theorem readReg_status {s : State} {complete : Bool} (h : rxComplete s = .ok complete) :
    readReg s .status = .ok (statusWord s complete) := by
  simp only [readReg, h]

theorem readReg_expLen {s : State} {n : Nat} (h : expLen s = .ok n) :
    readReg s .expLen = .ok (BitVec.ofNat 32 n) := by
  simp only [readReg, h]

theorem readReg_nreg_of_ok {s : State} (h : s.result = .ok) :
    readReg s .nreg = .ok (BitVec.ofNat 32 ((s.rxLen - 5) / 2)) := by
  simp only [readReg, nreg, h, if_true, nregOf]

theorem readReg_nreg_of_ne_ok {s : State} (h : s.result ≠ .ok) :
    readReg s .nreg = .ok 0#32 := by
  simp only [readReg, nreg, h, if_false]

/-- Settles O13. -/
theorem rdReturnsDerivedValue : Obligations.RdReturnsDerivedValue := fun _ =>
  ⟨fun hv => exec_rd_of_readReg rfl (readReg_expLen (expLen_of_txValid_false hv)),
    fun _ _ hv hhi hlo => exec_rd_of_readReg rfl (readReg_expLen (expLen_of_count hv hhi hlo)),
    fun hok => exec_rd_of_readReg rfl (readReg_nreg_of_ok hok),
    fun hne => exec_rd_of_readReg rfl (readReg_nreg_of_ne_ok hne)⟩

/-! ### `STATUS` -/

section

variable (s : State) (complete : Bool)

/-- The bits of `STATUS`, field by field from bit 0 (10_state.md R28). -/
theorem getLsbD_statusWord (i : Nat) : (statusWord s complete).getLsbD i =
    if i < 1 then (bit s.txValid).getLsbD i
    else if i - 1 < 1 then (bit s.rxOvf).getLsbD (i - 1)
    else if i - 2 < 1 then (bit complete).getLsbD (i - 2)
    else if i - 3 < 1 then (0#1).getLsbD (i - 3)
    else if i - 4 < 3 then (Verdict.code s.result).getLsbD (i - 4)
    else if i - 7 < 1 then (0#1).getLsbD (i - 7)
    else if i - 8 < 1 then (bit s.fcMatch).getLsbD (i - 8)
    else if i - 9 < 1 then (bit s.bcMatch).getLsbD (i - 9)
    else (0#22).getLsbD (i - 10) := by
  show BitVec.getLsbD (w := 22 + 1 + 1 + 1 + 3 + 1 + 1 + 1 + 1)
    (0#22 ++ bit s.bcMatch ++ bit s.fcMatch ++ 0#1 ++ Verdict.code s.result ++ 0#1
      ++ bit complete ++ bit s.rxOvf ++ bit s.txValid) i = _
  iterate 8 rw [BitVec.getLsbD_append]
  simp only [Nat.sub_sub, Nat.reduceAdd]

theorem extractLsb'_statusWord_result :
    (statusWord s complete).extractLsb' 4 3 = Verdict.code s.result := by
  apply BitVec.eq_of_getLsbD_eq
  intro i hi
  have hfield : ¬ 4 + i < 1 ∧ ¬ 4 + i - 1 < 1 ∧ ¬ 4 + i - 2 < 1 ∧ ¬ 4 + i - 3 < 1
      ∧ 4 + i - 4 = i := by omega
  rw [BitVec.getLsbD_extractLsb', getLsbD_statusWord]
  simp [hfield, hi]

theorem extractLsb'_statusWord_reserved :
    (statusWord s complete).extractLsb' 10 22 = 0#22 := by
  apply BitVec.eq_of_getLsbD_eq
  intro i hi
  have hfield : ¬ 10 + i < 1 ∧ ¬ 10 + i - 1 < 1 ∧ ¬ 10 + i - 2 < 1 ∧ ¬ 10 + i - 3 < 1
      ∧ ¬ 10 + i - 4 < 3 ∧ ¬ 10 + i - 7 < 1 ∧ ¬ 10 + i - 8 < 1 ∧ ¬ 10 + i - 9 < 1 := by omega
  rw [BitVec.getLsbD_extractLsb', getLsbD_statusWord]
  simp [hfield]

end

theorem toNat_verdictCode (v : Verdict) : (Verdict.code v).toNat = verdictNumber v := by
  cases v <;> rfl

/-- Settles O14. -/
theorem statusLayout : Obligations.StatusLayout := by
  refine ⟨fun s complete h => ?_, rfl, fun s data => ?_⟩
  · have hread : rxComplete s = .ok complete := by
      obtain ⟨hv, rfl⟩ | ⟨hv, hi, lo, hhi, hlo, rfl⟩ := h
      · exact rxComplete_of_txValid_false hv
      · exact rxComplete_of_count hv hhi hlo
    refine ⟨statusWord s complete, exec_rd_of_readReg rfl (readReg_status hread),
      ?_, ?_, ?_, ?_, ?_, ?_, ?_, ?_, extractLsb'_statusWord_reserved s complete⟩
    case refine_5 => rw [extractLsb'_statusWord_result, toNat_verdictCode]
    all_goals
      rw [getLsbD_statusWord]
      simp [bit]
  · rw [faulted_eq_raiseFault]
    rfl

/-! ### The registers that are state or constants -/

/-- Settles O12. -/
theorem rdReturnsRegister : Obligations.RdReturnsRegister := by
  refine ⟨fun s => ⟨?_, ?_, ?_, ?_, ?_, ?_, ?_, ?_, ?_⟩,
    formatS_of_commandOf (c := .rd) rfl rfl fun _ => rfl⟩
  all_goals exact exec_rd_of_readReg rfl rfl

/-- Settles O15. -/
theorem rdUndefinedSelectorFaults : Obligations.RdUndefinedSelectorFaults := by
  intro s sel h
  show execRd sel s = _
  rw [execRd, regOfSel_eq_none h, faulted_eq_raiseFault]

/-! ### The reset values -/

/-- Settles O9. -/
theorem resetLeavesSpecValues : Obligations.ResetLeavesSpecValues :=
  ⟨⟨rfl, rfl, rfl, rfl, rfl, rfl, rfl, rfl, rfl, rfl, rfl, rfl⟩,
    fun _ _ hin => ⟨_, step_resetPin hin,
      ⟨rfl, rfl, rfl, rfl, rfl, rfl, rfl, rfl, rfl, rfl, rfl, rfl⟩⟩,
    fun _ => ⟨_, rfl, ⟨rfl, rfl, rfl, rfl, rfl, rfl, rfl, rfl, rfl, rfl, rfl, rfl⟩⟩⟩

theorem statusWord_of_atResetValues {s : State} (h : AtResetValues s) :
    statusWord s false = 0#32 := by
  rw [statusWord, h.bcMatch, h.fcMatch, h.result, h.rxOvf, h.txValid]
  rfl

/-- Settles O10: the registers that are state read as they do in every state (`rdReturnsRegister`),
and without a request or a verdict the derived values are 0. -/
theorem readsAfterReset : Obligations.ReadsAfterReset := by
  intro s h
  obtain ⟨hregs, -⟩ := rdReturnsRegister
  have hstatus := readReg_status (rxComplete_of_txValid_false h.txValid)
  have hexp := readReg_expLen (expLen_of_txValid_false h.txValid)
  have hnreg := readReg_nreg_of_ne_ok (s := s) (by simp [h.result])
  rw [statusWord_of_atResetValues h] at hstatus
  have hread := hregs s
  rw [h.faults, h.crc, h.reqId, h.reqAddr, h.reqCnt, h.txPtr, h.rxLen] at hread
  obtain ⟨hfaults, hcrc, hid, hfc, haddr, hcnt, hptr, hlen, hcap⟩ := hread
  exact ⟨exec_rd_of_readReg rfl hstatus, hfaults, hcrc, hid, hfc, haddr, hcnt, hptr, hlen,
    exec_rd_of_readReg rfl hexp, exec_rd_of_readReg rfl hnreg, hcap⟩

end Sys2Proof.Safety

/-! ## Reading twice

`TX.RDB`, `RX.RDB` and `RX.REG` answer what the buffers hold, as `RD` answers a register
(`exec_rd_of_readReg`), and a recorded response is nothing that any of the four reads (20_memory.md
R45). -/

namespace Sys2Proof.Safety

open Sys2Proof.Machine

theorem exec_txRdb_of_readTx {idx : Half} {s : State} {b : Byte} (hv : s.txValid = true)
    (hi : indexOf idx ≤ 7) (hread : readTx s (indexOf idx) = .ok b) :
    exec (.txRdb idx) s = .next (answered (byteWord b) s) := by
  show execTxRdb idx s = _
  rw [execTxRdb, if_neg (by simp [hv]), if_neg (Nat.not_lt_of_le hi), hread]
  rfl

theorem exec_rxRdb_of_readRx {idx : Half} {s : State} {b : Byte} (hi : indexOf idx < s.rxLen)
    (hread : readRx s (indexOf idx) = .ok b) :
    exec (.rxRdb idx) s = .next (answered (byteWord b) s) := by
  show execRxRdb idx s = _
  rw [execRxRdb, if_neg (Nat.not_le_of_lt hi), hread]
  rfl

theorem exec_rxReg_of_readRx {idx : Half} {s : State} {hi lo : Byte} (hok : s.result = .ok)
    (hidx : indexOf idx < nregOf s.rxLen) (hhi : readRx s (3 + 2 * indexOf idx) = .ok hi)
    (hlo : readRx s (4 + 2 * indexOf idx) = .ok lo) :
    exec (.rxReg idx) s = .next (answered (halfWord (hi ++ lo)) s) := by
  show execRxReg idx s = _
  rw [execRxReg, if_neg (by simp [hok]), if_neg (Nat.not_le_of_lt hidx), hhi, hlo]
  rfl

theorem readReg_respond (d : Word) (s : State) (r : Reg) :
    readReg (respond d s) r = readReg s r := by
  cases r <;> rfl

/-- A read faults, or it answers a value which it answers again, whatever response was recorded in
between. -/
theorem exec_read {i : Instr} {s t : State} (hi : i.command ∈ [Command.rd, .txRdb, .rxRdb, .rxReg])
    (h : exec i s = .next t) :
    (∃ c, t = raiseFault c s)
      ∨ ∃ d, t = respond d s ∧ exec i (respond d s) = .next (answered d (respond d s)) := by
  cases i with
  | rd sel =>
    obtain ⟨-, rfl⟩ | ⟨r, v, hr, hread, rfl⟩ := execRd_next h
    · exact .inl ⟨_, rfl⟩
    · exact .inr ⟨v, rfl, exec_rd_of_readReg hr ((readReg_respond v s r).trans hread)⟩
  | txRdb idx =>
    obtain ⟨-, rfl⟩ | ⟨-, -, rfl⟩ | ⟨hv, hidx, b, hread, rfl⟩ := execTxRdb_next h
    · exact .inl ⟨_, rfl⟩
    · exact .inl ⟨_, rfl⟩
    · exact .inr ⟨_, rfl, exec_txRdb_of_readTx hv hidx hread⟩
  | rxRdb idx =>
    obtain ⟨-, rfl⟩ | ⟨hidx, b, hread, rfl⟩ := execRxRdb_next h
    · exact .inl ⟨_, rfl⟩
    · exact .inr ⟨_, rfl, exec_rxRdb_of_readRx hidx hread⟩
  | rxReg idx =>
    obtain ⟨-, rfl⟩ | ⟨-, -, rfl⟩ | ⟨hok, hidx, hb, lb, hhb, hlb, rfl⟩ := execRxReg_next h
    · exact .inl ⟨_, rfl⟩
    · exact .inl ⟨_, rfl⟩
    · exact .inr ⟨_, rfl, exec_rxReg_of_readRx hok hidx hhb hlb⟩
  | _ => simp [Instr.command] at hi

/-- Settles O45: the recorded response tells a read that faulted from one that answered `d`
(`exec_read`). -/
theorem readsAreIdempotent : Obligations.ReadsAreIdempotent := by
  intro i s t d hi h hresp
  obtain ⟨c, rfl⟩ | ⟨v, rfl, hagain⟩ := exec_read hi h
  · simp at hresp
  · obtain rfl : v = d := by simpa using hresp
    exact ⟨rfl, hagain⟩

end Sys2Proof.Safety

/-! ## The encoding

The decoder tests the opcode and then the bits its format says must be 0 (30_encoding.md R57); a row
of the opcode map tests the same in one comparison (R58). What both say of a word's three fields is
compared here, and the statements about words follow from it. -/

namespace Sys2Proof.Safety

open Sys2Proof.Machine

/-! ### Decoding an encoded instruction -/

theorem mustBeZeroHolds_encode (i : Instr) :
    mustBeZeroHolds (formatOf i.command) (encode i) = true := by
  cases i <;> simp [Instr.command, formatOf, encode, mustBeZeroHolds]

theorem assemble_encode (i : Instr) : assemble i.command (encode i) = i := by
  cases i <;> simp [Instr.command, encode, assemble]

theorem decode_encode (i : Instr) : decode (encode i) = .ok i :=
  decode_ok.mpr ⟨i.command, opField_encode i, mustBeZeroHolds_encode i, assemble_encode i⟩

/-- Settles O1. -/
theorem decodeEncodeRoundTrip : Obligations.DecodeEncodeRoundTrip :=
  fun i _ => decode_encode i

/-- Settles O5: each of the words is the encoding of its command by the assembler table. -/
theorem specWordsDecode : Obligations.SpecWordsDecode :=
  ⟨decode_encode (.rd 0x02#8), decode_encode (.wr 0x05#8 0x006B#16), decode_encode (.crcUpd 0x01#8),
    decode_encode (.txRdb 6#16), decode_encode (.rxReg 1#16)⟩

/-! ### Opcodes and rows -/

theorem exists_row (c : Command) : ∃ r ∈ opcodeMap, r.command = c := by
  cases c <;> decide

theorem commandOf_matchBits : ∀ r ∈ opcodeMap,
    commandOf (opField r.matchBits) = some r.command := by
  decide

theorem opField_matchBits_of_commandOf : ∀ op : Byte, ∀ c ∈ commandOf op,
    ∀ r ∈ opcodeMap, r.command = c → op = opField r.matchBits := by
  decide

/-- The decoder and the opcode map give a command the same opcode. -/
theorem commandOf_eq_some_iff {r : OpcodeRow} (hr : r ∈ opcodeMap) {op : Byte} :
    commandOf op = some r.command ↔ op = opField r.matchBits := by
  constructor
  · exact fun h => opField_matchBits_of_commandOf op _ h r hr rfl
  · rintro rfl
    exact commandOf_matchBits r hr

theorem commandOf_inj {op op' : Byte} {c : Command} (h : commandOf op = some c)
    (h' : commandOf op' = some c) : op = op' := by
  obtain ⟨r, hr, rfl⟩ := exists_row c
  rw [(commandOf_eq_some_iff hr).mp h, (commandOf_eq_some_iff hr).mp h']

/-! ### Encoding a decoded instruction -/

/-- Each format packs the operands again where it found them, and 0 where the word had to be 0. -/
theorem fields_encode_assemble {c : Command} {w : Word}
    (hz : mustBeZeroHolds (formatOf c) w = true) :
    selField (encode (assemble c w)) = selField w
      ∧ dataField (encode (assemble c w)) = dataField w := by
  cases c
  case nop | rst | crcInit | txBuild | txNext | rxClr | rxCheck =>
    obtain ⟨hsel, hdata⟩ : selField w = 0#8 ∧ dataField w = 0#16 := by
      simpa [formatOf, mustBeZeroHolds] using hz
    simp [assemble, encode, hsel, hdata]
  case rd =>
    have hdata : dataField w = 0#16 := by simpa [formatOf, mustBeZeroHolds] using hz
    simp [assemble, encode, hdata]
  case wr => simp [assemble, encode]
  case crcUpd | rxPush =>
    obtain ⟨hsel, hhi⟩ : selField w = 0#8 ∧ hiByte (dataField w) = 0#8 := by
      simpa [formatOf, mustBeZeroHolds] using hz
    simp [assemble, encode, hsel, byteData_loByte hhi]
  case txRdb | rxRdb | rxReg =>
    have hsel : selField w = 0#8 := by simpa [formatOf, mustBeZeroHolds] using hz
    simp [assemble, encode, hsel]

theorem encode_of_decode {w : Word} {i : Instr} (h : decode w = .ok i) : encode i = w := by
  obtain ⟨c, hc, hz, rfl⟩ := decode_ok.mp h
  have hop : commandOf (opField (encode (assemble c w))) = some c := by
    rw [opField_encode, command_assemble]
  rw [← packWord_fields (encode (assemble c w)), commandOf_inj hop hc]
  obtain ⟨hsel, hdata⟩ := fields_encode_assemble hz
  rw [hsel, hdata, packWord_fields]

/-- Settles O2. -/
theorem encodeDecodeRoundTrip : Obligations.EncodeDecodeRoundTrip :=
  fun _ _ h => encode_of_decode h

/-! ### Masks and formats -/

/-- The bits of a word that a format says must be 0 (30_encoding.md R57). -/
def zeroBits : Format → Word
  | .z => 0x00FFFFFF#32
  | .s => 0x0000FFFF#32
  | .sd => 0x00000000#32
  | .b => 0x00FFFF00#32
  | .i => 0x00FF0000#32

theorem and_highBits_eq_zero_iff {v : Half} : v &&& 0xFF00#16 = 0#16 ↔ hiByte v = 0#8 := by
  constructor
  · intro h
    calc hiByte v
      _ = hiByte v &&& hiByte 0xFF00#16 := BitVec.and_allOnes.symm
      _ = hiByte (v &&& 0xFF00#16) := BitVec.extractLsb'_and.symm
      _ = 0#8 := by rw [h]; rfl
  · intro h
    rw [← byteData_loByte h]
    exact Laws.EncodeFits.byteData_and _

theorem mustBeZeroHolds_iff (f : Format) (w : Word) :
    mustBeZeroHolds f w = true ↔
      selField w &&& selField (zeroBits f) = 0#8
        ∧ dataField w &&& dataField (zeroBits f) = 0#16 := by
  have hsel : selField w &&& 0xFF#8 = selField w := BitVec.and_allOnes
  have hdata : dataField w &&& 0xFFFF#16 = dataField w := BitVec.and_allOnes
  cases f with
  | z =>
    show _ ↔ selField w &&& 0xFF#8 = 0#8 ∧ dataField w &&& 0xFFFF#16 = 0#16
    simp [mustBeZeroHolds, hsel, hdata]
  | s =>
    show _ ↔ selField w &&& 0#8 = 0#8 ∧ dataField w &&& 0xFFFF#16 = 0#16
    simp [mustBeZeroHolds, hdata]
  | sd =>
    show _ ↔ selField w &&& 0#8 = 0#8 ∧ dataField w &&& 0#16 = 0#16
    simp [mustBeZeroHolds]
  | b =>
    show _ ↔ selField w &&& 0xFF#8 = 0#8 ∧ dataField w &&& 0xFF00#16 = 0#16
    simp [mustBeZeroHolds, hsel, and_highBits_eq_zero_iff]
  | i =>
    show _ ↔ selField w &&& 0xFF#8 = 0#8 ∧ dataField w &&& 0#16 = 0#16
    simp [mustBeZeroHolds, hsel]

/-- Below the opcode, a row compares the bits that its command's format says must be 0, with 0. -/
theorem row_fields : ∀ r ∈ opcodeMap,
    selField r.matchBits = 0#8 ∧ dataField r.matchBits = 0#16
      ∧ selField r.mask = selField (zeroBits (formatOf r.command))
      ∧ dataField r.mask = dataField (zeroBits (formatOf r.command)) := by
  decide

section

variable {r : OpcodeRow} (hr : r ∈ opcodeMap) {w : Word}
include hr

/-- A word fits a row when its opcode is the row's and its must-be-zero bits are 0. -/
theorem fits_iff : w &&& r.mask = r.matchBits ↔
    opField w = opField r.matchBits ∧ mustBeZeroHolds (formatOf r.command) w = true := by
  obtain ⟨hselMatch, hdataMatch, hselMask, hdataMask⟩ := row_fields r hr
  have hop : opField w &&& opField r.mask = opField w := by
    rw [Laws.EncodeFits.mask_op r hr]
    exact BitVec.and_allOnes
  have hfields := Laws.EncodeFits.fits_packWord r (opField w) (selField w) (dataField w)
  rw [packWord_fields, hop, hselMask, hdataMask, hselMatch, hdataMatch] at hfields
  rw [mustBeZeroHolds_iff, ← beq_iff_eq]
  show r.fits w = true ↔ _
  rw [hfields]
  simp [and_assoc]

theorem fits_iff_decode :
    w &&& r.mask = r.matchBits ↔ ∃ i, decode w = .ok i ∧ i.command = r.command := by
  rw [fits_iff hr, ← commandOf_eq_some_iff hr]
  constructor
  · rintro ⟨hop, hz⟩
    exact ⟨assemble r.command w, decode_ok.mpr ⟨_, hop, hz, rfl⟩, command_assemble _ w⟩
  · rintro ⟨i, hdec, hi⟩
    obtain ⟨c, hop, hz, rfl⟩ := decode_ok.mp hdec
    obtain rfl : c = r.command := (command_assemble c w).symm.trans hi
    exact ⟨hop, hz⟩

end

theorem decode_error_of_fits_no_row {w : Word} (h : ∀ r ∈ opcodeMap, w &&& r.mask ≠ r.matchBits) :
    ∃ e, decode w = .error e := by
  cases hdec : decode w with
  | error e => exact ⟨e, rfl⟩
  | ok i =>
    obtain ⟨r, hr, hcommand⟩ := exists_row i.command
    exact absurd ((fits_iff_decode hr).mpr ⟨i, hdec, hcommand.symm⟩) (h r hr)

/-- Settles O3. -/
theorem decodeFollowsOpcodeMap : Obligations.DecodeFollowsOpcodeMap :=
  fun _ => ⟨fun _ hr => fits_iff_decode hr, decode_error_of_fits_no_row⟩

/-! ### Words that are no command -/

theorem opField_matchBits_listed : ∀ r ∈ opcodeMap,
    ¬ ((0x04 ≤ (opField r.matchBits).toNat ∧ (opField r.matchBits).toNat ≤ 0x0F)
      ∨ (0x12 ≤ (opField r.matchBits).toNat ∧ (opField r.matchBits).toNat ≤ 0x1F)
      ∨ (0x23 ≤ (opField r.matchBits).toNat ∧ (opField r.matchBits).toNat ≤ 0x2F)
      ∨ 0x35 ≤ (opField r.matchBits).toNat) := by
  decide

/-- No opcode is listed twice. -/
theorem row_eq_of_opField_eq : ∀ r ∈ opcodeMap, ∀ q ∈ opcodeMap,
    opField r.matchBits = opField q.matchBits → r = q := by
  decide

theorem decode_eq_nop_iff {w : Word} : decode w = .ok .nop ↔ w = 0x00000000#32 := by
  constructor
  · exact fun h => (encode_of_decode h).symm
  · rintro rfl
    exact decode_encode .nop

/-- Settles O4: a word that fits a row has that row's opcode, which no other row has. -/
theorem unlistedWordRaisesIllegalOp : Obligations.UnlistedWordRaisesIllegalOp := by
  refine ⟨fun s w rest hin hno => ?_, fun w hop r hr hfit => ?_,
    fun w r hr hop hno q hq hfit => ?_, fun w => decode_eq_nop_iff, by decide⟩
  · obtain ⟨e, hdec⟩ := decode_error_of_fits_no_row hno
    exact illegal_of_decode hdec s rest hin
  · rw [((fits_iff hr).mp hfit).left] at hop
    exact opField_matchBits_listed r hr hop
  · have hsame : opField r.matchBits = opField q.matchBits :=
      hop.symm.trans ((fits_iff hq).mp hfit).left
    obtain rfl := row_eq_of_opField_eq r hr q hq hsame
    exact hno hfit

end Sys2Proof.Safety

/-! ## The response to a command -/

namespace Sys2Proof.Safety

open Sys2Proof.Machine

/-- The response with which the command `i` takes the state `s` to `t` (30_encoding.md R61). -/
inductive Responds (i : Instr) (s t : State) : Prop
  | fault (c : CmdFault) (given : t.responses = s.responses ++ [⟨some c, 0#32⟩])
  | value (d : Word) (given : t.responses = s.responses ++ [⟨none, d⟩])
      (bound : d.toNat < returnBound i.command)

theorem toNat_setWidth_lt {n : Nat} (v : BitVec n) : (v.setWidth 32 : Word).toNat < 2 ^ n := by
  rw [BitVec.toNat_setWidth]
  exact lt_of_le_of_lt (Nat.mod_le _ _) v.isLt

theorem exec_responds {i : Instr} {s t : State} (h : exec i s = .next t) : Responds i s t := by
  cases i with
  | nop =>
    obtain rfl := execNop_next.mp h
    exact .value _ rfl Nat.one_pos
  | rd sel =>
    obtain ⟨-, rfl⟩ | ⟨_, v, -, -, rfl⟩ := execRd_next h
    · exact .fault _ rfl
    · exact .value v rfl v.isLt
  | wr sel data =>
    obtain ⟨-, -, rfl⟩ | ⟨-, -, rfl⟩ | ⟨-, rfl⟩ | ⟨-, rfl⟩ | ⟨-, -, -, rfl⟩ := execWr_next h
    · exact .fault _ rfl
    · exact .value _ rfl Nat.one_pos
    · exact .value _ rfl Nat.one_pos
    · exact .value _ rfl Nat.one_pos
    · exact .fault _ rfl
  | rst =>
    obtain rfl := execRst_next.mp h
    exact .value _ rfl Nat.one_pos
  | crcInit =>
    obtain rfl := execCrcInit_next.mp h
    exact .value _ rfl Nat.one_pos
  | crcUpd b =>
    obtain rfl := execCrcUpd_next.mp h
    exact .value _ rfl Nat.one_pos
  | txBuild =>
    obtain ⟨-, rfl⟩ | ⟨-, -, rfl⟩ := execTxBuild_next h
    · exact .fault _ rfl
    · exact .value _ rfl Nat.one_pos
  | txRdb idx =>
    obtain ⟨-, rfl⟩ | ⟨-, -, rfl⟩ | ⟨-, -, b, -, rfl⟩ := execTxRdb_next h
    · exact .fault _ rfl
    · exact .fault _ rfl
    · exact .value _ rfl (toNat_setWidth_lt b)
  | txNext =>
    obtain ⟨-, rfl⟩ | ⟨-, -, b, -, rfl⟩ := execTxNext_next h
    · exact .fault _ rfl
    · exact .value _ rfl (toNat_setWidth_lt b)
  | rxClr =>
    obtain rfl := execRxClr_next.mp h
    exact .value _ rfl Nat.one_pos
  | rxPush b =>
    obtain ⟨-, rfl⟩ | ⟨-, -, rfl⟩ | ⟨-, -, rfl⟩ := execRxPush_next h
    · exact .fault _ rfl
    · exact .value _ rfl Nat.one_pos
    · exact .value _ rfl Nat.one_pos
  | rxCheck =>
    obtain ⟨-, rfl⟩ | ⟨-, v, _, _, -, -, rfl⟩ := execRxCheck_next h
    · exact .fault _ rfl
    · exact .value _ rfl (toNat_setWidth_lt (Verdict.code v))
  | rxRdb idx =>
    obtain ⟨-, rfl⟩ | ⟨-, b, -, rfl⟩ := execRxRdb_next h
    · exact .fault _ rfl
    · exact .value _ rfl (toNat_setWidth_lt b)
  | rxReg idx =>
    obtain ⟨-, rfl⟩ | ⟨-, -, rfl⟩ | ⟨-, -, hi, lo, -, -, rfl⟩ := execRxReg_next h
    · exact .fault _ rfl
    · exact .fault _ rfl
    · exact .value _ rfl (toNat_setWidth_lt (hi ++ lo : Half))

theorem returnBound_pos (c : Command) : 0 < returnBound c := by
  cases c <;> decide

theorem toNat_rspFault_le (r : Response) : r.rspFault.toNat ≤ 5 := by
  obtain ⟨_ | c, d⟩ := r
  · exact Nat.zero_le 5
  · cases c <;> simp [Response.rspFault, CmdFault.code]

/-- Settles O42. -/
theorem oneResponsePerCommand : Obligations.OneResponsePerCommand := by
  intro i s t h
  cases exec_responds h with
  | fault c given =>
    exact ⟨_, given, fun _ => rfl, returnBound_pos i.command, toNat_rspFault_le _⟩
  | value d given bound =>
    exact ⟨_, given, fun hfault => absurd rfl hfault, bound, toNat_rspFault_le _⟩

end Sys2Proof.Safety

/-! ## The host access commands

`NOP`, `WR` and `RST` (40_host_access.md R80, R82, R83): what each writes, and the words it has. -/

namespace Sys2Proof.Safety

open Sys2Proof.Machine

/-! ### The words of formats Z and SD -/

theorem formatZ_of_commandOf {op : Byte} {c : Command} {i : Instr}
    (hop : commandOf op = some c) (hformat : formatOf c = .z)
    (hi : ∀ w, assemble c w = i) : FormatZ op i := by
  rintro w rfl
  have hdec := decode_of_commandOf hop
  rw [hformat, hi] at hdec
  have hzero : mustBeZeroHolds .z w = true ↔ selField w = 0#8 ∧ dataField w = 0#16 := by
    simp [mustBeZeroHolds]
  exact ⟨fun hz => runs_of_decode (hdec.trans (if_pos (hzero.mpr hz))),
    fun hnz => illegal_of_decode (hdec.trans (if_neg fun h => not_and_or.mpr hnz (hzero.mp h)))⟩

theorem formatSD_of_commandOf {op : Byte} {c : Command} {i : Byte → Half → Instr}
    (hop : commandOf op = some c) (hformat : formatOf c = .sd)
    (hi : ∀ w, assemble c w = i (selField w) (dataField w)) : FormatSD op i := by
  rintro w rfl
  have hdec := decode_of_commandOf hop
  rw [hformat, hi] at hdec
  exact runs_of_decode hdec

/-! ### `NOP` and `RST` -/

/-- Settles O11. -/
theorem nopRespondsOnly : Obligations.NopRespondsOnly :=
  ⟨fun _ => rfl, formatZ_of_commandOf (c := .nop) rfl rfl fun _ => rfl⟩

/-- Settles O18. -/
theorem rstRestoresResetState : Obligations.RstRestoresResetState :=
  ⟨fun _ => rfl,
    fun _ _ _ _ hi hexec hn => getLsbD_faults_of_commandEffect (exec_commandEffect hexec) hi hn,
    formatZ_of_commandOf (c := .rst) rfl rfl fun _ => rfl⟩

/-! ### `WR` -/

theorem eq_selOfReg_of_regOfSel : ∀ sel : Byte, ∀ r ∈ regOfSel sel, sel = selOfReg r := by
  decide

/-- The selector map gives each register one selector (10_state.md R30). -/
theorem regOfSel_eq_some_iff {sel : Byte} {r : Reg} :
    regOfSel sel = some r ↔ sel = selOfReg r := by
  constructor
  · exact eq_selOfReg_of_regOfSel sel r
  · rintro rfl
    cases r <;> rfl

theorem answered_eq_respond (d : Word) (s : State) : answered d s = respond d s := rfl

theorem loByte_eq_setWidth (v : Half) : loByte v = v.setWidth 8 :=
  (BitVec.setWidth_eq_extractLsb' (by decide)).symm

/-- Settles O16: `WR` always answers a next state, which is one of those of `execWr_next`. -/
theorem wrWritesRequestRegister : Obligations.WrWritesRequestRegister := by
  refine ⟨fun s sel data => ?_, formatSD_of_commandOf (c := .wr) rfl rfl fun _ => rfl⟩
  obtain ⟨t, ht⟩ := execWr_progress sel data s
  have hcases := execWr_next ht
  simp only [regOfSel_eq_some_iff, ne_eq, loByte_eq_setWidth, ← faulted_eq_raiseFault,
    ← answered_eq_respond] at hcases
  show execWr sel data s = _
  rw [ht]
  obtain ⟨rfl, hbig, rfl⟩ | ⟨rfl, hfits, rfl⟩ | ⟨rfl, rfl⟩ | ⟨rfl, rfl⟩ | ⟨hid, haddr, hcnt, rfl⟩ :=
    hcases
  · simp [selOfReg, hbig]
  · simp [selOfReg, Nat.not_lt.mpr hfits]
  · rfl
  · rfl
  · rw [if_pos ⟨hid, haddr, hcnt⟩]

end Sys2Proof.Safety

/-! ## The CRC generator

The two forms of the step and what the rest of the block sees of them (41_crc.md R94), the commands
`CRC.INIT` and `CRC.UPD` (R96, R97), and what the checksum detects (R99, R100). -/

namespace Sys2Proof.Safety

open Sys2Proof.Machine

/-! ### The form of the step is not observable -/

theorem crcTableEntry_loByte (x : Half) :
    crcTableEntry (loByte x) = crcTable.getD (x.toNat % 256) 0#16 := by
  rw [crcTableEntry, loByte, BitVec.extractLsb'_toNat, Nat.shiftRight_zero]

theorem mapNext_orStop {α : Type} (g : State → State) (r : Except Fault α) (k : α → StepOutcome) :
    mapNext g (orStop r k) = orStop r fun a => mapNext g (k a) := by
  cases r <;> rfl

section

variable (impl : CrcImpl) (s : State)

theorem readReg_withCrcImpl (r : Reg) : readReg (withCrcImpl impl s) r = readReg s r := by
  cases r <;> rfl

theorem execRd_withCrcImpl (sel : Byte) :
    execRd sel (withCrcImpl impl s) = mapNext (withCrcImpl impl) (execRd sel s) := by
  unfold execRd
  split
  · rfl
  · rw [mapNext_orStop, readReg_withCrcImpl]
    rfl

theorem execWr_withCrcImpl (sel : Byte) (data : Half) :
    execWr sel data (withCrcImpl impl s) = mapNext (withCrcImpl impl) (execWr sel data s) := by
  unfold execWr
  split
  · rw [apply_ite (mapNext _)]
    rfl
  all_goals rfl

theorem execCrcUpd_withCrcImpl (b : Byte) :
    execCrcUpd b (withCrcImpl impl s) = mapNext (withCrcImpl impl) (execCrcUpd b s) := by
  simp only [execCrcUpd, crcUnitStep_eq]
  rfl

/-- A command reads `CRC_IMPL` only to choose the form of its CRC step, and the forms are equal. -/
theorem exec_withCrcImpl (i : Instr) :
    exec i (withCrcImpl impl s) = mapNext (withCrcImpl impl) (exec i s) := by
  cases i with
  | rd sel => exact execRd_withCrcImpl impl s sel
  | wr sel data => exact execWr_withCrcImpl impl s sel data
  | crcUpd b => exact execCrcUpd_withCrcImpl impl s b
  | nop | rst | crcInit | rxClr => rfl
  | txBuild | txRdb | txNext | rxPush | rxCheck | rxRdb | rxReg =>
    simp only [exec, execTxBuild, execTxRdb, execTxNext, execRxPush, execRxCheck, execRxRdb,
      execRxReg, apply_ite (mapNext _), mapNext_orStop]
    rfl

end

/-- Settles O22: eight passes of the loop are a shift and a table entry (`crc16StepTable_eq`), and
only `CRC.UPD` makes the step that `CRC_IMPL` chooses (`exec_withCrcImpl`). -/
theorem crcImplUnobservable : Obligations.CrcImplUnobservable := by
  refine ⟨fun c b => ⟨?_, crc16StepTable_eq c b⟩, fun i s impl => exec_withCrcImpl impl s i⟩
  rw [← crcTableEntry_loByte, ← crc16StepTable_eq, crc16StepTable]

/-! ### `CRC.INIT` and `CRC.UPD` -/

theorem formatB_of_commandOf {op : Byte} {c : Command} {i : Byte → Instr}
    (hop : commandOf op = some c) (hformat : formatOf c = .b)
    (hi : ∀ w, assemble c w = i (loByte (dataField w))) : FormatB op i := by
  rintro w rfl
  have hdec := decode_of_commandOf hop
  rw [hformat, hi] at hdec
  have hzero : mustBeZeroHolds .b w = true ↔
      selField w = 0#8 ∧ hiByte (dataField w) = 0#8 := by
    simp [mustBeZeroHolds]
  exact ⟨fun hz => runs_of_decode (hdec.trans (if_pos (hzero.mpr hz))),
    fun hnz => illegal_of_decode (hdec.trans (if_neg fun h => not_and_or.mpr hnz (hzero.mp h)))⟩

/-- Settles O20. -/
theorem crcInitWritesInitialValue : Obligations.CrcInitWritesInitialValue :=
  ⟨fun _ => rfl, formatZ_of_commandOf (c := .crcInit) rfl rfl fun _ => rfl⟩

/-- Settles O21. -/
theorem crcUpdStepsAccumulator : Obligations.CrcUpdStepsAccumulator := by
  refine ⟨fun s b => ?_, formatB_of_commandOf (c := .crcUpd) rfl rfl fun _ => rfl⟩
  rw [← crcUnitStep_eq s.params.crcImpl]
  rfl

/-! ### The checksum of a message that carries its checksum -/

theorem crc16_append (c : Half) (xs ys : List Byte) :
    crc16 c (xs ++ ys) = crc16 (crc16 c xs) ys := by
  induction xs generalizing c with
  | nil => rfl
  | cons x xs ih => exact ih (crc16Step c x)

theorem hiByte_eq_loByte_ushiftRight (v : Half) : hiByte v = loByte (v >>> 8) := by
  apply BitVec.eq_of_getLsbD_eq
  intro i hi
  simp [hiByte, loByte]

/-- A step by the accumulator's own low byte clears that byte, and the loop only shifts. -/
theorem crc16Step_loByte (c : Half) : crc16Step c (loByte c) = c >>> 8 := by
  have hclear : loByte (c ^^^ (loByte c).setWidth 16) = 0#8 := by
    simp [loByte_eq_setWidth]
  have hentry : crcTableEntry 0#8 = 0#16 := rfl
  rw [← crc16StepTable_eq, crc16StepTable, hclear, hentry, BitVec.xor_zero]

theorem crc16_ownBytes (c : Half) : crc16 c [loByte c, hiByte c] = 0#16 := by
  rw [crc16, crc16Step_loByte, hiByte_eq_loByte_ushiftRight, crc16, crc16Step_loByte, crc16,
    ← BitVec.shiftRight_add]
  exact BitVec.ushiftRight_eq_zero (Nat.le_refl 16)

/-- Settles O24. -/
theorem residueLaw : Obligations.ResidueLaw := by
  intro m
  rw [← loByte_eq_setWidth, ← loByte_eq_setWidth, ← hiByte_eq_loByte_ushiftRight]
  exact (crc16_append _ m _).trans (crc16_ownBytes _)

/-! ### The checksum tells messages apart

Each pass of the loop can be undone, so no step forgets a difference in `CRC` or in the byte. -/

/-- Exclusive-or with the polynomial sets bit 15, which the shift has cleared. -/
theorem crcShift_eq_zero {c : Half} (h : crcShift c = 0#16) : c = 0#16 := by
  unfold crcShift at h
  split at h
  next =>
    have htop := congrArg (·.getLsbD 15) h
    simp [crcPoly] at htop
  next heven =>
    apply BitVec.eq_of_getLsbD_eq
    intro i _
    cases i with
    | zero => simpa using heven
    | succ i => simpa [Nat.add_comm] using congrArg (·.getLsbD i) h

theorem crcShift_injective : Function.Injective crcShift := by
  intro a b h
  apply BitVec.xor_eq_zero_iff.mp
  apply crcShift_eq_zero
  rw [crcShift_xor, h, BitVec.xor_self]

theorem crcShifts_injective (n : Nat) : Function.Injective (crcShifts n) := by
  induction n with
  | zero => exact Function.injective_id
  | succ n ih => exact ih.comp crcShift_injective

theorem crc16Step_left_injective (b : Byte) : Function.Injective fun c => crc16Step c b :=
  fun _ _ h => (BitVec.xor_left_inj _).mp (crcShifts_injective 8 h)

theorem crc16Step_right_injective (c : Half) : Function.Injective (crc16Step c) := by
  intro b b' h
  have hwide := (BitVec.xor_right_inj _).mp (crcShifts_injective 8 h)
  simpa using congrArg (BitVec.setWidth 8) hwide

theorem crc16_left_injective (bs : List Byte) : Function.Injective fun c => crc16 c bs := by
  induction bs with
  | nil => exact Function.injective_id
  | cons b bs ih => exact ih.comp (crc16Step_left_injective b)

/-- Changing one byte of a message changes its checksum. -/
theorem crc16_set_ne {f : List Byte} {k : Nat} {b : Byte} (hk : k < f.length) (hb : b ≠ f[k])
    (c : Half) : crc16 c (f.set k b) ≠ crc16 c f := by
  induction f generalizing k c with
  | nil => simp at hk
  | cons x f ih =>
    cases k with
    | zero => exact fun h => hb (crc16Step_right_injective c (crc16_left_injective f h))
    | succ k => exact ih (by simpa using hk) hb (crc16Step c x)

theorem crc16_pair_eq_zero_iff {c : Half} {lo hi : Byte} :
    crc16 c [lo, hi] = 0#16 ↔ hi ++ lo = c := by
  have hown : crc16 (hi ++ lo : Half) [lo, hi] = 0#16 := by
    simpa using crc16_ownBytes (hi ++ lo)
  constructor
  · exact fun h => crc16_left_injective [lo, hi] (hown.trans h.symm)
  · rintro rfl
    exact hown

theorem take_append_lastTwo {f : List Byte} (h : 2 ≤ f.length) :
    f.take (f.length - 2) ++ [f.getD (f.length - 2) 0#8, f.getD (f.length - 1) 0#8] = f := by
  have hlast : f.length - 2 + 1 = f.length - 1 := by omega
  have htail : f.drop (f.length - 2)
      = [f.getD (f.length - 2) 0#8, f.getD (f.length - 1) 0#8] := by
    rw [List.drop_eq_getElem_cons (by omega), List.drop_eq_getElem_cons (by omega),
      List.drop_of_length_le (by omega), List.getD_eq_getElem, List.getD_eq_getElem]
    · simp only [hlast]
    all_goals omega
  rw [← htail, List.take_append_drop]

/-- A frame carries its checksum when the checksum of the whole frame is 0 (41_crc.md R99). -/
theorem carriesCrc_iff_crc16Modbus_eq_zero {f : List Byte} (h : 2 ≤ f.length) :
    CarriesCrc f ↔ crc16Modbus f = 0#16 := by
  calc CarriesCrc f
    _ ↔ trailingCrc f = crc16Modbus (f.take (f.length - 2)) := by
      rw [carriesCrc_iff_crcGood, crcGood, beq_iff_eq]
    _ ↔ crc16 (crc16Modbus (f.take (f.length - 2)))
          [f.getD (f.length - 2) 0#8, f.getD (f.length - 1) 0#8] = 0#16 :=
      crc16_pair_eq_zero_iff.symm
    _ ↔ crc16Modbus f = 0#16 := by
      rw [crc16Modbus, ← crc16_append, take_append_lastTwo h, crc16Modbus]

theorem xor_bit_ne (b : Byte) {j : Nat} (hj : j < 8) : b ^^^ (1#8 <<< j) ≠ b := by
  intro h
  have hbit := congrArg (·.getLsbD j) h
  simp [hj] at hbit

/-- Settles O25: an inverted bit changes a byte, so the checksum of the whole frame is no longer
0. -/
theorem singleBitErrorDetected : Obligations.SingleBitErrorDetected := by
  intro f k j hlen hf hk hj hflip
  have hlen : 2 ≤ f.length := by omega
  rw [carriesCrc_iff_crc16Modbus_eq_zero hlen] at hf
  rw [carriesCrc_iff_crc16Modbus_eq_zero (by simpa [flipBit] using hlen)] at hflip
  refine crc16_set_ne hk ?_ crcInitial (hflip.trans hf.symm)
  rw [List.getD_eq_getElem f 0#8 hk]
  exact xor_bit_ne _ hj

end Sys2Proof.Safety

/-! ## The request serializer

The request carries its checksum (42_request_serializer.md R106); what `TX.BUILD` loads (R107), and
how `TX.RDB` and `TX.NEXT` give it out (R108, R109). -/

namespace Sys2Proof.Safety

open Sys2Proof.Machine

/-! ### The built request -/

theorem carriesCrc_buildRequest (id : Byte) (addr cnt : Half) :
    CarriesCrc (buildRequest id addr cnt) := toNat_loByte_add_hiByte _

/-- Settles O27. -/
theorem requestRoundTrip : Obligations.RequestRoundTrip := by
  intro id addr cnt
  have hcrc := carriesCrc_buildRequest id addr cnt
  have hlen : 2 ≤ (buildRequest id addr cnt).length := Nat.le_add_left 2 6
  exact ⟨hcrc.symm, (carriesCrc_iff_crc16Modbus_eq_zero hlen).mp hcrc⟩

/-! ### `TX.BUILD` -/

theorem exec_txBuild_refused {s : State} (h : s.reqId.toNat < 1 ∨ 247 < s.reqId.toNat) :
    exec .txBuild s = .next (faulted .badValue s) := by
  show execTxBuild s = _
  rw [execTxBuild, if_pos h, faulted_eq_raiseFault]

theorem exec_txBuild_built {s : State} (hge : 1 ≤ s.reqId.toNat) (hle : s.reqId.toNat ≤ 247) :
    exec .txBuild s = .next (respond 0#32
      (loadRequest (buildRequest s.reqId s.reqAddr s.reqCnt) (clearReceive s))) :=
  if_neg (not_or.mpr ⟨Nat.not_lt.mpr hge, Nat.not_lt.mpr hle⟩)

/-- Bytes 4 and 5 of a request are its count (30_encoding.md R66), which `EXP_LEN` reads back. -/
theorem expLen_of_txFrame_buildRequest {s : State} {id : Byte} {addr cnt : Half}
    (hv : s.txValid = true) (hframe : txFrame s = .ok (buildRequest id addr cnt)) :
    expLen s = .ok (5 + 2 * cnt.toNat) := by
  obtain ⟨-, hread⟩ := readSpan_ok.mp hframe
  have hhi : readTx s 4 = .ok (hiByte cnt) := hread 4 (by decide)
  have hlo : readTx s 5 = .ok (loByte cnt) := hread 5 (by decide)
  rw [expLen_of_count hv hhi hlo, Nat.mul_comm _ 256, Nat.add_comm (256 * _),
    toNat_loByte_add_hiByte]

/-- Settles O28. -/
theorem txBuildLoadsRequest : Obligations.TxBuildLoadsRequest := by
  refine ⟨fun s => ⟨exec_txBuild_refused, fun hge hle => ?_⟩,
    formatZ_of_commandOf (c := .txBuild) rfl rfl fun _ => rfl⟩
  have hframe : txFrame (respond 0#32
      (loadRequest (buildRequest s.reqId s.reqAddr s.reqCnt) (clearReceive s)))
      = .ok (buildRequest s.reqId s.reqAddr s.reqCnt) := txFrame_loadRequest rfl _
  refine ⟨_, _, _, exec_txBuild_built hge hle, rfl, rfl, ?layout, fun i hi => ?outside, rfl,
    exec_rd_of_readReg rfl (readReg_expLen (expLen_of_txFrame_buildRequest rfl hframe))⟩
  case layout =>
    rw [hframe]
    simp only [buildRequest, hiByte_eq_loByte_ushiftRight, loByte_eq_setWidth]
  case outside => exact Memory.read_writeFrom_other s.txBuf 0 _ (.inr hi)

/-! ### `TX.RDB` -/

theorem formatI_of_commandOf {op : Byte} {c : Command} {i : Half → Instr}
    (hop : commandOf op = some c) (hformat : formatOf c = .i)
    (hi : ∀ w, assemble c w = i (dataField w)) : FormatI op i := by
  rintro w rfl
  have hdec := decode_of_commandOf hop
  rw [hformat, hi] at hdec
  refine ⟨fun hsel => runs_of_decode (hdec.trans (if_pos ?_)),
    fun hsel => illegal_of_decode (hdec.trans (if_neg ?_))⟩
  · simp [mustBeZeroHolds, hsel]
  · simp [mustBeZeroHolds, hsel]

theorem exec_txRdb_of_txValid_false {s : State} (idx : Half) (hv : s.txValid = false) :
    exec (.txRdb idx) s = .next (faulted .badSeq s) := by
  show execTxRdb idx s = _
  rw [execTxRdb, if_pos hv, faulted_eq_raiseFault]

theorem exec_txRdb_past_end {s : State} {idx : Half} (hv : s.txValid = true)
    (hi : 7 < indexOf idx) : exec (.txRdb idx) s = .next (faulted .badIndex s) := by
  show execTxRdb idx s = _
  rw [execTxRdb, if_neg (by simp [hv]), if_pos hi, faulted_eq_raiseFault]

/-- Settles O29. -/
theorem txRdbReadsRequestByte : Obligations.TxRdbReadsRequestByte :=
  ⟨fun _ idx => ⟨exec_txRdb_of_txValid_false idx, exec_txRdb_past_end,
      fun _ => exec_txRdb_of_readTx⟩,
    formatI_of_commandOf (c := .txRdb) rfl rfl fun _ => rfl⟩

/-! ### `TX.NEXT` -/

theorem exec_txNext_faulted {s : State} (h : s.txValid = false ∨ s.txPtr = 8#4) :
    exec .txNext s = .next (faulted .badSeq s) := by
  show execTxNext s = _
  rw [faulted_eq_raiseFault]
  by_cases hv : s.txValid = false
  · rw [execTxNext, if_pos hv]
  · rw [execTxNext, if_neg hv, if_pos (h.resolve_left hv)]

theorem exec_txNext_of_readTx {s : State} {b : Byte} (hv : s.txValid = true)
    (hp : s.txPtr ≠ 8#4) (hread : readTx s s.txPtr.toNat = .ok b) :
    exec .txNext s = .next (answered (byteWord b) { s with txPtr := s.txPtr + 1#4 }) := by
  show execTxNext s = _
  rw [execTxNext, if_neg (by simp [hv]), if_neg hp, hread]
  rfl

/-- Where there is a byte to hand out, `TX_PTR` is below 8, so that it neither faults nor wraps. -/
theorem txPtr_advances_of_readTx {s : State} {b : Byte} (hread : readTx s s.txPtr.toNat = .ok b) :
    s.txPtr ≠ 8#4 ∧ (s.txPtr + 1#4).toNat = s.txPtr.toNat + 1 := by
  obtain ⟨hlt, -⟩ := readTx_ok.mp hread
  constructor
  · intro hp
    simp [hp] at hlt
  · apply BitVec.toNat_add_of_lt
    simp only [BitVec.toNat_ofNat]
    omega

/-- As many `TX.NEXT` as there are bytes of the request from `TX_PTR` on hand out those bytes. -/
theorem execAll_txNext {f : List Byte} {s : State} (hv : s.txValid = true)
    (hread : ∀ k, k < f.length → readTx s (s.txPtr.toNat + k) = .ok (f.getD k 0#8)) :
    execAll (List.replicate f.length .txNext) s = .next { s with
      txPtr := s.txPtr + BitVec.ofNat 4 f.length
      responses := s.responses ++ f.map fun b => ⟨none, byteWord b⟩ } := by
  induction f generalizing s with
  | nil => simp [execAll]
  | cons b f ih =>
    have hfirst : readTx s s.txPtr.toNat = .ok b := hread 0 (Nat.zero_lt_succ _)
    obtain ⟨hp, hnext⟩ := txPtr_advances_of_readTx hfirst
    refine execAll_cons_next.mpr ⟨_, exec_txNext_of_readTx hv hp hfirst, ?_⟩
    have hrest (k : Nat) (hk : k < f.length) :
        readTx s ((s.txPtr + 1#4).toNat + k) = .ok (f.getD k 0#8) := by
      rw [hnext, Nat.add_assoc, Nat.add_comm 1]
      exact hread (k + 1) (Nat.succ_lt_succ hk)
    have hptr : s.txPtr + 1#4 + BitVec.ofNat 4 f.length
        = s.txPtr + BitVec.ofNat 4 (f.length + 1) := by
      rw [BitVec.ofNat_add, BitVec.add_assoc, BitVec.add_comm 1#4]
    rw [ih (s := answered (byteWord b) { s with txPtr := s.txPtr + 1#4 }) hv hrest]
    simp [answered, hptr]

/-- `TX.BUILD` and `RST` rewind the pointer, and every other command leaves it or advances it from
below 8. -/
theorem toNat_txPtr_le_of_exec {i : Instr} {s t : State} (h : exec i s = .next t)
    (hbuild : i ≠ .txBuild) (hrst : i ≠ .rst) : s.txPtr.toNat ≤ t.txPtr.toNat := by
  cases i with
  | txBuild => exact absurd rfl hbuild
  | rst => exact absurd rfl hrst
  | txNext =>
    obtain ⟨-, rfl⟩ | ⟨-, -, b, hread, rfl⟩ := execTxNext_next h
    · exact le_rfl
    · obtain ⟨-, hnext⟩ := txPtr_advances_of_readTx hread
      exact (Nat.le_succ _).trans hnext.ge
  | _ =>
    obtain ⟨-, -, -, -, hptr, -⟩ := writeTable _ s t h
    rw [hptr (by simp [Instr.command])]

/-- Settles O30. -/
theorem txNextHandsOutRequest : Obligations.TxNextHandsOutRequest := by
  refine ⟨fun s => ⟨fun hv => exec_txNext_faulted (.inl hv),
      fun _ hp => exec_txNext_faulted (.inr hp), fun _ => exec_txNext_of_readTx, ?_⟩,
    fun _ _ _ => toNat_txPtr_le_of_exec, formatZ_of_commandOf (c := .txNext) rfl rfl fun _ => rfl⟩
  intro f hv hp hframe
  obtain ⟨hlen, hread⟩ := readSpan_ok.mp hframe
  have hall := execAll_txNext (f := f) hv (by simpa [hp, hlen] using hread)
  rw [hlen, hp] at hall
  exact ⟨_, hall, rfl, exec_txNext_faulted (.inr rfl)⟩

end Sys2Proof.Safety

/-! ## The response parser

What each `RX` command does, one equation per outcome (43_response_parser.md R121 to R129), and what
follows of judging again and of a received bit inverted (R125, R130). -/

namespace Sys2Proof.Safety

open Sys2Proof.Machine

/-! ### `RX.CLR` -/

/-- A built request expects the five bytes around the payload at least (10_state.md R27). -/
theorem five_le_of_expLen {s : State} {n : Nat} (hv : s.txValid = true) (h : expLen s = .ok n) :
    5 ≤ n := by
  rw [expLen, if_pos hv] at h
  split at h
  · cases h
  · cases h
    exact Nat.le_add_right 5 _

theorem rxComplete_of_rxLen_lt_five {s : State} {n : Nat} (hlen : s.rxLen < 5)
    (h : expLen s = .ok n) : rxComplete s = .ok false := by
  cases hv : s.txValid with
  | false => exact rxComplete_of_txValid_false hv
  | true =>
    have hn := five_le_of_expLen hv h
    have hless : ¬ n ≤ s.rxLen := by omega
    simp [rxComplete, hv, h, hless]

/-- Settles O31. -/
theorem rxClrEmptiesReceiveSide : Obligations.RxClrEmptiesReceiveSide := by
  refine ⟨fun _ => rfl, fun s t n hexec hn => ?_,
    formatZ_of_commandOf (c := .rxClr) rfl rfl fun _ => rfl⟩
  obtain rfl := execRxClr_next.mp hexec
  exact rxComplete_of_rxLen_lt_five (by simp) hn

/-! ### `RX.PUSH` -/

section

variable {s : State} (b : Byte)

theorem exec_rxPush_judged (hres : s.result ≠ .none) :
    exec (.rxPush b) s = .next (faulted .badSeq s) := by
  show execRxPush b s = _
  rw [execRxPush, if_pos hres, faulted_eq_raiseFault]

theorem exec_rxPush_room (hres : s.result = .none) (room : s.rxLen < s.params.rxcap) :
    exec (.rxPush b) s = .next (answered 0#32 (appendByte b s)) := by
  show execRxPush b s = _
  rw [execRxPush, if_neg (by simp [hres]), if_pos room]
  rfl

theorem exec_rxPush_full (hres : s.result = .none) (full : s.params.rxcap ≤ s.rxLen) :
    exec (.rxPush b) s = .next (answered 0#32 { s with rxOvf := true }) := by
  show execRxPush b s = _
  rw [execRxPush, if_neg (by simp [hres]), if_neg (Nat.not_lt.mpr full)]
  rfl

end

/-- Settles O32. -/
theorem rxPushAppendsByte : Obligations.RxPushAppendsByte :=
  ⟨fun _ b => ⟨exec_rxPush_judged b,
      fun hres room => ⟨_, exec_rxPush_room b hres room, readRx_appendByte_self b room,
        fun _ hi => Memory.read_write_other _ b hi, rfl⟩,
      exec_rxPush_full b⟩,
    formatB_of_commandOf (c := .rxPush) rfl rfl fun _ => rfl⟩

/-! ### `RX.CHECK` -/

theorem exec_rxCheck_of_txValid_false {s : State} (hv : s.txValid = false) :
    exec .rxCheck s = .next (faulted .badSeq s) := by
  show execRxCheck s = _
  rw [execRxCheck, if_pos hv, faulted_eq_raiseFault]

theorem verdictCode_setWidth (v : Verdict) :
    (Verdict.code v).setWidth 32 = BitVec.ofNat 32 (verdictNumber v) := by
  cases v <;> rfl

section

variable {s : State} {v : Verdict} (hj : judgeReceived s = .ok v) (hv : s.txValid = true)
include hj hv

theorem exec_rxCheck_judged {fc bc : Bool} (hm : matchFlags s v = .ok (fc, bc)) :
    exec .rxCheck s
      = .next (answered (BitVec.ofNat 32 (verdictNumber v)) (setVerdict v fc bc s)) := by
  show execRxCheck s = _
  rw [execRxCheck, if_neg (by simp [hv]), hj, ← verdictCode_setWidth]
  simp only [orStop, hm]
  rfl

theorem exec_rxCheck_rejected (hne : v ≠ .ok) :
    exec .rxCheck s
      = .next (answered (BitVec.ofNat 32 (verdictNumber v)) (setVerdict v false false s)) :=
  exec_rxCheck_judged hj hv (matchFlags_of_ne_ok s hne)

end

theorem readRx_of_rxFrame {s : State} {rx : List Byte} (hrx : rxFrame s = .ok rx) {i : Nat}
    (hi : i < s.rxLen) : readRx s i = .ok (rx.getD i 0#8) := by
  obtain ⟨-, hread⟩ := readSpan_ok.mp hrx
  simpa using hread i hi

theorem judgeReceived_of_short {s : State} (hlen : s.rxLen < 5) : judgeReceived s = .ok .short :=
  if_pos hlen

theorem judgeReceived_of_overrun {s : State} (hlen : 5 ≤ s.rxLen) (hovf : s.rxOvf = true) :
    judgeReceived s = .ok .overrun := by
  rw [judgeReceived, if_neg (Nat.not_lt.mpr hlen), if_pos hovf]

section

variable {s : State} {rx : List Byte} (hrx : rxFrame s = .ok rx) (hlen : 5 ≤ s.rxLen)
include hrx hlen

theorem judgeReceived_of_frame (hovf : s.rxOvf = false) {id : Byte} (hid : readTx s 0 = .ok id) :
    judgeReceived s = .ok (if crcGood rx = false then .crc
      else if rx.getD 0 0#8 ≠ id then .addr else .ok) := by
  obtain ⟨hrxlen, -⟩ := readSpan_ok.mp hrx
  have hjudge : judgeReceived s = .ok (judge rx false id) := by
    rw [judgeReceived, if_neg (Nat.not_lt.mpr hlen), if_neg (by simp [hovf])]
    simp only [hrx, hid]
  rw [hjudge, judge, if_neg (by rw [hrxlen]; exact Nat.not_lt.mpr hlen), if_neg (by decide)]

theorem matchFlags_ok_of_frame {fc : Byte} (hfc : readTx s 1 = .ok fc) :
    matchFlags s .ok = .ok (rx.getD 1 0#8 == fc, (rx.getD 2 0#8).toNat == s.rxLen - 5) := by
  have hone := readRx_of_rxFrame hrx (i := 1) (by omega)
  have htwo := readRx_of_rxFrame hrx (i := 2) (by omega)
  rw [matchFlags, if_pos rfl]
  simp only [hone, hfc, htwo]

end

theorem bytes_eq_iff {hi lo : Byte} {v : Half} : hi ++ lo = v ↔ lo = loByte v ∧ hi = hiByte v := by
  constructor
  · rintro rfl
    simp
  · rintro ⟨rfl, rfl⟩
    exact hiByte_append_loByte v

/-- The CRC test fails when one of the two trailing bytes, low byte first, is not the checksum's
(43_response_parser.md R124). -/
theorem crcGood_eq_false_iff {rx : List Byte} {n : Nat} (hlen : rx.length = n) {c : Half}
    (hc : c = crc16Modbus (rx.take (n - 2))) :
    crcGood rx = false ↔
      rx.getD (n - 2) 0#8 ≠ c.setWidth 8 ∨ rx.getD (n - 1) 0#8 ≠ (c >>> 8).setWidth 8 := by
  subst hlen hc
  rw [crcGood, beq_eq_false_iff_ne, trailingCrc, ne_eq, bytes_eq_iff, not_and_or,
    hiByte_eq_loByte_ushiftRight, loByte_eq_setWidth, loByte_eq_setWidth]

/-- Settles O33. -/
theorem rxCheckJudgesResponse : Obligations.RxCheckJudgesResponse := by
  refine ⟨fun s => ⟨exec_rxCheck_of_txValid_false, fun hv hlen => ?_, fun hv hlen hovf => ?_,
    fun rx c id fc hv hlen hovf hrx hid hfc hc => ?_⟩,
    formatZ_of_commandOf (c := .rxCheck) rfl rfl fun _ => rfl⟩
  · exact exec_rxCheck_rejected (judgeReceived_of_short hlen) hv nofun
  · exact exec_rxCheck_rejected (judgeReceived_of_overrun hlen hovf) hv nofun
  · have hj := judgeReceived_of_frame hrx hlen hovf hid
    obtain ⟨hrxlen, -⟩ := readSpan_ok.mp hrx
    simp only [crcGood_eq_false_iff hrxlen hc] at hj
    split_ifs at hj ⊢
    · exact exec_rxCheck_rejected hj hv nofun
    · exact exec_rxCheck_rejected hj hv nofun
    · exact exec_rxCheck_judged hj hv (matchFlags_ok_of_frame hrx hlen hfc)

/-- Settles O34: writing a verdict and flags that stand already changes nothing. -/
theorem rxCheckRepeatable : Obligations.RxCheckRepeatable := by
  intro s hcur hv hne
  obtain ⟨hj, hm⟩ := hcur hne
  exact exec_rxCheck_judged hj hv hm

/-! ### A received bit inverted -/

theorem readRx_write {s : State} {k : Nat} (b : Byte) (hk : k < s.params.rxcap) (i : Nat) :
    readRx { s with rxBuf := Memory.write s.rxBuf k b } i
      = if i = k then .ok b else readRx s i := by
  split
  next hik =>
    subst hik
    exact readRx_ok.mpr ⟨hk, Memory.read_write_same _ _ _⟩
  next hik => simp only [readRx, readCell, Memory.read_write_other _ _ hik]

/-- Another byte in a cell of the received frame is another byte of the frame. -/
theorem rxFrame_write {s : State} {f : List Byte} {k : Nat} (b : Byte) (hk : k < s.params.rxcap)
    (hf : rxFrame s = .ok f) :
    rxFrame { s with rxBuf := Memory.write s.rxBuf k b } = .ok (f.set k b) := by
  obtain ⟨hlen, -⟩ := readSpan_ok.mp hf
  refine readSpan_ok.mpr ⟨List.length_set.trans hlen, fun i hi => ?_⟩
  rw [Nat.zero_add, readRx_write b hk, readRx_of_rxFrame hf hi]
  split
  next hik =>
    subst hik
    have hi : i < f.length := hlen.symm ▸ hi
    simp [hi]
  next hik => simp [Ne.symm hik]

/-- Settles O35: the received frame with a bit inverted does not carry its checksum
(`singleBitErrorDetected`), and the CRC test comes before the address test. -/
theorem flippedBitRejectedByCrc : Obligations.FlippedBitRejectedByCrc := by
  intro s t k j b hv hexec hok hk hj hread
  obtain ⟨hv', -⟩ | ⟨-, v, fc, bc, hjudge, -, rfl⟩ := execRxCheck_next hexec
  · simp [hv] at hv'
  obtain rfl : v = .ok := hok
  obtain ⟨hlen, hovf, ⟨id, -, hid⟩, f, hf, hcrc⟩ := judgeReceived_eq_ok hjudge
  obtain ⟨hflen, -⟩ := readSpan_ok.mp hf
  obtain ⟨hcap, -⟩ := readRx_ok.mp hread
  obtain rfl : f.getD k 0#8 = b := Except.ok.inj ((readRx_of_rxFrame hf hk).symm.trans hread)
  have hflipped : rxFrame { s with
      rxBuf := Memory.write s.rxBuf k (f.getD k 0#8 ^^^ (1#8 <<< j)) } = .ok (flipBit f k j) :=
    rxFrame_write _ hcap hf
  have hbad : crcGood (flipBit f k j) = false := by
    rw [← Bool.not_eq_true, ← carriesCrc_iff_crcGood]
    exact singleBitErrorDetected f k j (by omega) hcrc (by omega) hj
  have hreject := judgeReceived_of_frame hflipped hlen hovf hid
  rw [if_pos hbad] at hreject
  exact ⟨_, exec_rxCheck_rejected hreject hv nofun, rfl⟩

/-! ### `RX.RDB` and `RX.REG` -/

theorem exec_rxRdb_past_end {s : State} {idx : Half} (hi : s.rxLen ≤ indexOf idx) :
    exec (.rxRdb idx) s = .next (faulted .badIndex s) := by
  show execRxRdb idx s = _
  rw [execRxRdb, if_pos hi, faulted_eq_raiseFault]

/-- Settles O36. -/
theorem rxRdbReadsReceivedByte : Obligations.RxRdbReadsReceivedByte :=
  ⟨fun _ _ => ⟨exec_rxRdb_past_end, fun _ => exec_rxRdb_of_readRx⟩,
    formatI_of_commandOf (c := .rxRdb) rfl rfl fun _ => rfl⟩

theorem exec_rxReg_of_result_ne_ok {s : State} (idx : Half) (hne : s.result ≠ .ok) :
    exec (.rxReg idx) s = .next (faulted .badSeq s) := by
  show execRxReg idx s = _
  rw [execRxReg, if_pos hne, faulted_eq_raiseFault]

theorem exec_rxReg_past_end {s : State} {idx : Half} (hok : s.result = .ok)
    (hi : nregOf s.rxLen ≤ indexOf idx) :
    exec (.rxReg idx) s = .next (faulted .badIndex s) := by
  show execRxReg idx s = _
  rw [execRxReg, if_neg (by simp [hok]), if_pos hi, faulted_eq_raiseFault]

/-- A register value is big-endian (43_response_parser.md R129). -/
theorem halfWord_bytes (hi lo : Byte) :
    halfWord (hi ++ lo) = BitVec.ofNat 32 (hi.toNat * 256 + lo.toNat) := by
  rw [halfWord, ← BitVec.ofNat_toNat, toNat_bytes, Nat.add_comm, Nat.mul_comm]

/-- Settles O37. -/
theorem rxRegDeliversRegister : Obligations.RxRegDeliversRegister := by
  refine ⟨fun s idx => ⟨exec_rxReg_of_result_ne_ok idx, exec_rxReg_past_end,
    fun hi lo hok hidx hhi hlo => ?_⟩, formatI_of_commandOf (c := .rxReg) rfl rfl fun _ => rfl⟩
  rw [← halfWord_bytes]
  exact exec_rxReg_of_readRx hok hidx hhi hlo

/-- Settles O38: a register below `NREG` ends before the trailing checksum, so both its bytes were
received. -/
theorem acceptedResponseDeliversRegisters : Obligations.AcceptedResponseDeliversRegisters := by
  intro s idx h hok
  refine ⟨fun hidx => ?_, exec_rxReg_past_end hok⟩
  obtain ⟨hi, hhi⟩ := h.rx_written (3 + 2 * idx.toNat) (by omega)
  obtain ⟨lo, hlo⟩ := h.rx_written (4 + 2 * idx.toNat) (by omega)
  exact ⟨_, toNat_setWidth_lt _, exec_rxReg_of_readRx hok hidx hhi hlo⟩

end Sys2Proof.Safety

/-! ## Command faults

That a command faults is seen in its response alone, and the response then tells the whole effect
(60_exceptions.md R146); which faults a command has is the table of R148. -/

namespace Sys2Proof.Safety

open Sys2Proof.Machine

/-- Of the effects a command can have, only a fault its row lists is answered with a fault code. -/
theorem faulted_of_fault_response {i : Instr} {s t : State} {c : CmdFault} {d : Word}
    (h : exec i s = .next t) (hresp : t.responses = s.responses ++ [⟨some c, d⟩]) :
    c ∈ mayRaise i.command ∧ t = faulted c s := by
  rw [faulted_eq_raiseFault]
  cases exec_commandEffect h with
  | faulted c' listed =>
    obtain ⟨rfl, -⟩ : c' = c ∧ 0#32 = d := by simpa using hresp
    exact ⟨listed, rfl⟩
  | _ => simp at hresp

/-- Settles O40. -/
theorem commandFaultIsPrecise : Obligations.CommandFaultIsPrecise :=
  fun _ _ _ _ _ h hresp => (faulted_of_fault_response h hresp).right

/-- The guards of the commands see a built request and an accepted response without registers. The
buffer cells behind them are not written: a command that faults reads none. -/
def acceptedWithoutRegisters : State := { State.reset with txValid := true, result := .ok }

/-- Every entry of the table has a witness. Most faults come right after reset, when no request is
built and nothing is received or judged; an index past the end and a push after a verdict need
`acceptedWithoutRegisters`. -/
theorem exists_exec_faulted {m : Command} {c : CmdFault} (h : c ∈ mayRaise m) :
    ∃ i s, i.command = m ∧ exec i s = .next (faulted c s) := by
  cases m with
  | nop | rst | crcInit | crcUpd | rxClr => simp [mayRaise] at h
  | rd =>
    obtain rfl := List.mem_singleton.mp h
    exact ⟨.rd 0x0C#8, .reset, rfl, rdUndefinedSelectorFaults _ _ (by decide)⟩
  | wr =>
    obtain ⟨hwr, -⟩ := wrWritesRequestRegister
    obtain rfl | rfl := List.mem_pair.mp h
    · exact ⟨.wr 0x00#8 0#16, .reset, rfl, hwr _ _ _⟩
    · exact ⟨.wr 0x03#8 0x0100#16, .reset, rfl, hwr _ _ _⟩
  | txBuild =>
    obtain rfl := List.mem_singleton.mp h
    exact ⟨.txBuild, .reset, rfl, exec_txBuild_refused (.inl Nat.one_pos)⟩
  | txRdb =>
    obtain rfl | rfl := List.mem_pair.mp h
    · exact ⟨.txRdb 0#16, .reset, rfl, exec_txRdb_of_txValid_false _ rfl⟩
    · exact ⟨.txRdb 8#16, acceptedWithoutRegisters, rfl, exec_txRdb_past_end rfl (by decide)⟩
  | txNext =>
    obtain rfl := List.mem_singleton.mp h
    exact ⟨.txNext, .reset, rfl, exec_txNext_faulted (.inl rfl)⟩
  | rxPush =>
    obtain rfl := List.mem_singleton.mp h
    exact ⟨.rxPush 0#8, acceptedWithoutRegisters, rfl, exec_rxPush_judged _ nofun⟩
  | rxCheck =>
    obtain rfl := List.mem_singleton.mp h
    exact ⟨.rxCheck, .reset, rfl, exec_rxCheck_of_txValid_false rfl⟩
  | rxRdb =>
    obtain rfl := List.mem_singleton.mp h
    exact ⟨.rxRdb 0#16, .reset, rfl, exec_rxRdb_past_end (Nat.zero_le _)⟩
  | rxReg =>
    obtain rfl | rfl := List.mem_pair.mp h
    · exact ⟨.rxReg 0#16, .reset, rfl, exec_rxReg_of_result_ne_ok _ nofun⟩
    · exact ⟨.rxReg 0#16, acceptedWithoutRegisters, rfl, exec_rxReg_past_end rfl (by decide)⟩

/-- Settles O41. -/
theorem faultsOfEachCommand : Obligations.FaultsOfEachCommand := by
  intro m c
  constructor
  · intro h
    obtain ⟨i, s, hi, hexec⟩ := exists_exec_faulted h
    exact ⟨i, s, faulted c s, hi, hexec, rfl⟩
  · rintro ⟨i, s, t, rfl, hexec, hresp⟩
    exact (faulted_of_fault_response hexec hresp).left

end Sys2Proof.Safety

/-! ## Reset and hazards

`RST` keeps the bytes of both buffers and `rst` does not, but no command can read a cell after
either, so the two states answer alike for ever (70_reset_and_hazards.md R167). After a build, a `WR`
leaves the request as it is (R178), zero bytes behind a frame leave its checksum good (R174), and a
request that expects more than `RXCAP` bytes never completes (R176). -/

namespace Sys2Proof.Safety

open Sys2Proof.Machine

/-! ### `rst` and `RST` -/

/-- Settles O8: `step`'s equation for `rst` at the port. -/
theorem resetPinGivesResetState : Obligations.ResetPinGivesResetState :=
  fun _ _ hin => step_resetPin hin

/-- Where one of two indistinguishable states steps on, so does the other. -/
theorem SameVisible.step_next {s t s' : State} (h : SameVisible s t) (hs : step s = .next s') :
    ∃ t', step t = .next t' ∧ SameVisible s' t' := by
  have hsame := unreadableCellsNeverObserved s t h
  rw [hs] at hsame
  generalize step t = o at hsame
  cases hsame with
  | next h' => exact ⟨_, rfl, h'⟩

/-- Two indistinguishable states with the invariants run without a stop and stay
indistinguishable. -/
theorem SameVisible.run {s t : State} (h : SameVisible s t) (hinv : StateInv s) (n : Nat) :
    ∃ u v, core.run n s = .next u ∧ core.run n t = .next v ∧ SameVisible u v := by
  induction n generalizing s t with
  | zero => exact ⟨s, t, rfl, rfl, h⟩
  | succ n ih =>
    obtain ⟨s', hs⟩ := stepNeverStops s hinv
    obtain ⟨t', ht, h'⟩ := h.step_next hs
    obtain ⟨-, hkept⟩ := stepKeepsInvariants
    rw [core_run_next n hs, core_run_next n ht]
    exact ih h' (hkept s s' hinv hs)

/-- With no built request and nothing received, no buffer cell can be read. -/
theorem sameVisible_of_no_readable_cell {s t : State}
    (hrest : { s with txBuf := t.txBuf, rxBuf := t.rxBuf } = t) (hv : s.txValid = false)
    (hlen : s.rxLen = 0) : SameVisible s t where
  rest := hrest
  tx := by simp [hv]
  rx := by simp [hlen]

/-- Settles O19: the states after `RST` and after `rst`, given the same inputs, differ only in cells
no command can read, and a run keeps it so. -/
theorem rstIndistinguishableFromReset : Obligations.RstIndistinguishableFromReset := by
  intro s
  refine ⟨_, _, rfl, step_resetPin rfl, rfl, rfl, rfl, fun n ins => ?_⟩
  have hinv : StateInv { resetRegisters (clearReceive s) with inputs := ins, responses := [] } :=
    stateInv_of_receive_empty rfl rfl rfl rfl rfl (Nat.zero_le 8) BitVec.getLsbD_zero nofun
  obtain ⟨u, v, hu, hv, huv⟩ :=
    (sameVisible_of_no_readable_cell (t := { hardReset s with inputs := ins, responses := [] })
      rfl rfl rfl).run hinv n
  exact ⟨u, v, hu, hv, huv.agree State.responses⟩

/-! ### After a build -/

/-- Settles O17: every outcome of `WR` writes only request registers, `FAULTS` and the response,
and none of these is read by the frame, by `EXP_LEN` or by the verdict. -/
theorem wrLeavesBuiltRequest : Obligations.WrLeavesBuiltRequest := by
  intro s t sel data hexec
  obtain ⟨-, -, rfl⟩ | ⟨-, -, rfl⟩ | ⟨-, rfl⟩ | ⟨-, rfl⟩ | ⟨-, -, -, rfl⟩ := execWr_next hexec
  all_goals exact ⟨rfl, rfl, rfl⟩

/-- Zero bytes leave an accumulator that is 0 at 0. -/
theorem crc16_zero_replicate_zero (n : Nat) : crc16 0#16 (List.replicate n 0#8) = 0#16 := by
  induction n with
  | zero => rfl
  | succ n ih => exact ih

/-- Settles O26: a frame carries its checksum when the checksum of the whole is 0, and zero bytes
keep it 0. -/
theorem trailingZerosKeepCrc : Obligations.TrailingZerosKeepCrc := by
  intro f n hlen hf
  rw [carriesCrc_iff_crc16Modbus_eq_zero (by omega)] at hf
  rw [carriesCrc_iff_crc16Modbus_eq_zero (by rw [List.length_append]; omega), crc16Modbus,
    crc16_append, ← crc16Modbus, hf]
  exact crc16_zero_replicate_zero n

theorem rxComplete_of_rxLen_lt {s : State} {n : Nat} (hv : s.txValid = true)
    (hexp : expLen s = .ok n) (hlen : s.rxLen < n) : rxComplete s = .ok false := by
  simp [rxComplete, hv, hexp, hlen]

/-- Settles O39: no more than `RXCAP` bytes are received (10_state.md R33 item 2), so fewer than the
request expects. -/
theorem neverCompleteBeyondCapacity : Obligations.NeverCompleteBeyondCapacity := by
  intro s n hinv hv hexp hcap
  have hless : s.rxLen < n := lt_of_le_of_lt hinv.rxLen_le hcap
  have hread := readReg_status (rxComplete_of_rxLen_lt hv hexp hless)
  refine ⟨statusWord s false, exec_rd_of_readReg rfl hread, ?_⟩
  rw [getLsbD_statusWord]
  rfl

end Sys2Proof.Safety
